-- ==== Sys2Proof/Word.lean ====
section
/-! DEFINITION. The widths of the spec (00_scope R6, 10_state R15 to R20, 30_encoding R51, R55), the three
colours (00_scope R4) and the constants of the screen (00_scope R4). -/

namespace Sys2Proof

/-- One byte of FB, of BM or of the bus (20_memory R33, R34). -/
abbrev Byte := BitVec 8

/-- An operand field A0..A3, or a cursor register (30_encoding R51, 10_state R15). -/
abbrev Half := BitVec 16

/-- A command word CW (30_encoding R51). -/
abbrev CmdWord := BitVec 128

/-- A response word RSP (30_encoding R55). -/
abbrev RspWord := BitVec 32

/-- The colours; their codes OFF = 0, ON = 1, INVERSE = 2 are the literal API contract (00_scope R4). -/
inductive Colour where
  | off
  | on
  | inverse
  deriving DecidableEq, Repr

/-- Display width W in pixels (00_scope R4). -/
abbrev screenW : Nat := 128

/-- Display height H in pixels (00_scope R4). -/
abbrev screenH : Nat := 64

/-- Framebuffer size FBSIZE in bytes (00_scope R4). -/
abbrev fbSize : Nat := 1024

end Sys2Proof
end

