-- ==== Sys2Proof/Config.lean ====
section
/-! DEFINITION. The parameters of the engine (00_scope R5; 30_encoding R61, R62, R63) as one record of plain data,
their values in State.reset, and the free values: constants with no body, of which no proof can know the value. -/

namespace Sys2Proof

/-- A font1 glyph: five column bytes, left to right, bit j = row j from the top (42_glyph R90). -/
abbrev Glyph1 := Vector Byte 5

/-- A font2 glyph, already decoded: its columns left to right, each the pixels of the column top to bottom
(42_glyph R91). A pixel that is not listed is 0. -/
abbrev Glyph2 := List (List Bool)

/-- The implementation parameters of 00_scope R5, fixed for the life of the engine (70_reset R171). `CHUNK`, `F2W`
and `F2H` are stored minus one, so that their lower bounds hold of every value (log 15). -/
structure Params where
  devAddr          : BitVec 7
  chunkLess1       : Fin 1024
  font1            : Vector Glyph1 256
  f2wLess1         : Nat
  f2hLess1         : Nat
  font2            : Vector Glyph2 256
  wordWrapInit     : Bool
  textFg           : Colour
  textBg           : Colour
  newlineCode      : Byte
  gapScaled        : Bool
  ctrlCmd          : Byte
  ctrlData         : Byte
  opcDisplayOff    : Byte
  opcDisplayOn     : Byte
  opcClockDiv      : Byte
  opcMultiplex     : Byte
  opcDisplayOffset : Byte
  opcStartLine     : Byte
  opcChargePump    : Byte
  opcSegRemap      : Byte
  opcComScan       : Byte
  opcComPins       : Byte
  opcContrast      : Byte
  opcPrecharge     : Byte
  opcVcomDetect    : Byte
  opcMemoryMode    : Byte
  opcColumnAddr    : Byte
  opcPageAddr      : Byte
  argClockDiv      : Byte
  argMultiplex     : Byte
  argDisplayOffset : Byte
  argChargePump    : Byte
  argComPins       : Byte
  argContrast      : Byte
  argPrecharge     : Byte
  argVcomDetect    : Byte
  argMemoryMode    : Byte
  deriving DecidableEq, Repr

namespace Params

/-- CHUNK, 1..1024 (44_display R124). -/
def chunk (p : Params) : Nat := p.chunkLess1.val + 1

/-- F2W ≥ 1 (42_glyph R91). -/
def f2w (p : Params) : Nat := p.f2wLess1 + 1

/-- F2H ≥ 1 (42_glyph R91). -/
def f2h (p : Params) : Nat := p.f2hLess1 + 1

end Params

namespace Config

/-! Free values (log 3, 5, 6, 7). -/

/-- DEV_ADDR of the engine that State.reset describes: OPEN (00_scope R5, 10_state R19). -/
opaque freeDevAddr : BitVec 7

/-- FONT1: OPEN, the table is not in the source (42_glyph R90). -/
opaque freeFont1 : Vector Glyph1 256

/-- F2W minus one: OPEN (42_glyph R91). -/
opaque freeF2wLess1 : Nat

/-- F2H minus one: OPEN (42_glyph R91). -/
opaque freeF2hLess1 : Nat

/-- FONT2: OPEN (42_glyph R91). -/
opaque freeFont2 : Vector Glyph2 256

/-- WORDWRAP_INIT: OPEN (10_state R17). -/
opaque freeWordWrap : Bool

/-- FB byte at an address after the reset of a given number: unspecified (10_state R14). -/
opaque freeFbByte : (reset address : Nat) → Byte

/-- BM byte at an address of which nothing is listed: open content (20_memory R38). -/
opaque freeBmByte : (address : Nat) → Byte

/-- `success` of a BusWrite that the transport's script does not answer (20_memory R40). -/
opaque freeBusSuccess : (draw : Nat) → Bool

/-- `status` of a BusEnd that the transport's script does not answer (20_memory R40). -/
opaque freeBusStatus : (draw : Nat) → Byte

/-- The spec's defaults (00_scope R5; 30_encoding R61, R62, R63) around the parameters it leaves open. -/
def withDefaults (devAddr : BitVec 7) (font1 : Vector Glyph1 256) (f2wLess1 f2hLess1 : Nat)
    (font2 : Vector Glyph2 256) (wordWrapInit : Bool) : Params where
  devAddr := devAddr
  chunkLess1 := 15
  font1 := font1
  f2wLess1 := f2wLess1
  f2hLess1 := f2hLess1
  font2 := font2
  wordWrapInit := wordWrapInit
  textFg := .on
  textBg := .off
  newlineCode := 0x0A
  gapScaled := false
  ctrlCmd := 0x00
  ctrlData := 0x40
  opcDisplayOff := 0xAE
  opcDisplayOn := 0xAF
  opcClockDiv := 0xD5
  opcMultiplex := 0xA8
  opcDisplayOffset := 0xD3
  opcStartLine := 0x40
  opcChargePump := 0x8D
  opcSegRemap := 0xA1
  opcComScan := 0xC8
  opcComPins := 0xDA
  opcContrast := 0x81
  opcPrecharge := 0xD9
  opcVcomDetect := 0xDB
  opcMemoryMode := 0x20
  opcColumnAddr := 0x21
  opcPageAddr := 0x22
  argClockDiv := 0x80
  argMultiplex := 0x3F
  argDisplayOffset := 0x00
  argChargePump := 0x14
  argComPins := 0x12
  argContrast := 0xCF
  argPrecharge := 0xF1
  argVcomDetect := 0x40
  argMemoryMode := 0x00

/-- The parameters in State.reset: the defaults, with a free value for every parameter the spec leaves OPEN (log 5). -/
def params : Params :=
  withDefaults freeDevAddr freeFont1 freeF2wLess1 freeF2hLess1 freeFont2 freeWordWrap

end Config

end Sys2Proof
end

