-- ==== Sys2Proof/Syntax.lean ====
section
/-! DEFINITION. The seventeen commands (30_encoding R56), one constructor per row of opcode_table.json, with their
operands in the order of 30_encoding R59. Operand fields are held as the command word carries them; how a meaning
reads one (signed or unsigned) is Machine/Operands.lean's. -/

namespace Sys2Proof

/-- A command of the engine. -/
inductive Instr where
  /-- OP 0x01, format Z (44_display R118). -/
  | init
  /-- OP 0x02, format Z (44_display R122). -/
  | update
  /-- OP 0x03, format Z (44_display R120). -/
  | on
  /-- OP 0x04, format Z (44_display R121). -/
  | off
  /-- OP 0x05, format Z (40_pixel_fill R73). -/
  | clear
  /-- OP 0x06, format C (40_pixel_fill R72). -/
  | fillscreen (color : Colour)
  /-- OP 0x07, format U (42_glyph R96). -/
  | setlocation (x y : Half)
  /-- OP 0x08, format N (42_glyph R97). -/
  | settextsize (n : Byte)
  /-- OP 0x10, format P (40_pixel_fill R71). -/
  | drawpixel (x y : Half) (color : Colour)
  /-- OP 0x11, format Q (41_raster R80). -/
  | drawline (x0 y0 x1 y1 : Half) (color : Colour)
  /-- OP 0x12, format S (41_raster R81). -/
  | drawfastvline (x y h : Half) (color : Colour)
  /-- OP 0x13, format S (41_raster R82). -/
  | drawfasthline (x y w : Half) (color : Colour)
  /-- OP 0x14, format Q (41_raster R84). -/
  | fillrect (x y w h : Half) (color : Colour)
  /-- OP 0x20, format G (42_glyph R93). -/
  | drawchar (x y : Half) (c : Byte) (color bg : Colour) (size : Byte)
  /-- OP 0x21, format G (42_glyph R94). -/
  | drawcharfont2 (x y : Half) (c : Byte) (color bg : Colour) (size : Byte)
  /-- OP 0x22, format W (42_glyph R98). -/
  | write (c : Byte)
  /-- OP 0x30, format B (43_blit R111). -/
  | drawbitmap (x y : Half) (base : BitVec 32) (width height : Half) (color bg : Colour)
  deriving DecidableEq, Repr

namespace Instr

/-- The pseudo-instruction PRINT: one WRITE per byte of the string, in order (30_encoding R60). -/
def print (s : List Byte) : List Instr := s.map .write

end Instr

end Sys2Proof
end

