-- ==== Sys2Proof/WellFormed.lean ====
section
/-! DEFINITION. The value check of 30_encoding R58 that the types of Instr do not make: a scale is 1..255. (The
colour code 3 and a nonzero reserved field are no term of Instr.) -/

namespace Sys2Proof

/-- A command that some command word encodes: the scale of SETTEXTSIZE, DRAWCHAR and DRAWCHARFONT2 is not 0
(30_encoding R58, code 4). -/
def Instr.wellFormed : Instr → Bool
  | .init => true
  | .update => true
  | .on => true
  | .off => true
  | .clear => true
  | .fillscreen _ => true
  | .setlocation _ _ => true
  | .settextsize n => n != 0
  | .drawpixel _ _ _ => true
  | .drawline _ _ _ _ _ => true
  | .drawfastvline _ _ _ _ => true
  | .drawfasthline _ _ _ _ => true
  | .fillrect _ _ _ _ _ => true
  | .drawchar _ _ _ _ _ size => size != 0
  | .drawcharfont2 _ _ _ _ _ size => size != 0
  | .write _ => true
  | .drawbitmap _ _ _ _ _ _ _ => true

end Sys2Proof
end

