-- ==== Sys2Proof/Decode.lean ====
section
/-! DEFINITION. Command words: their fields (30_encoding R51), the formats (R53), the opcode map (R56), the decoder
with its refusals in the order of R58, the encoder, the opcode table's match and mask (R57), the serialized form
(R52) and the textual form (R59). -/

namespace Sys2Proof

/-! ### Refusals -/

/-- Why a command word is refused, in the order the tests are made (30_encoding R58). -/
inductive IllegalCode where
  | reservedOp
  | reservedField
  | reservedColour
  | zeroScale
  deriving DecidableEq, Repr

/-- The code carried in ERR (30_encoding R55, R58). -/
def IllegalCode.bits : IllegalCode → BitVec 4
  | .reservedOp => 1
  | .reservedField => 2
  | .reservedColour => 3
  | .zeroScale => 4

/-! ### Fields of a command word -/

/-- The fields of a command word (30_encoding R51). -/
structure Fields where
  op    : Byte
  color : BitVec 2
  bg    : BitVec 2
  rsv0  : BitVec 4
  a0    : Half
  a1    : Half
  a2    : Half
  a3    : Half
  rsv1  : Half
  base  : BitVec 32
  deriving DecidableEq, Repr

/-- The fields at their bit positions (30_encoding R51). -/
def Fields.ofWord (w : CmdWord) : Fields where
  op    := w.extractLsb' 0 8
  color := w.extractLsb' 8 2
  bg    := w.extractLsb' 10 2
  rsv0  := w.extractLsb' 12 4
  a0    := w.extractLsb' 16 16
  a1    := w.extractLsb' 32 16
  a2    := w.extractLsb' 48 16
  a3    := w.extractLsb' 64 16
  rsv1  := w.extractLsb' 80 16
  base  := w.extractLsb' 96 32

/-- The command word with the given fields, BASE in the most significant bits (30_encoding R51). -/
def Fields.toWord (f : Fields) : CmdWord :=
  f.base ++ f.rsv1 ++ f.a3 ++ f.a2 ++ f.a1 ++ f.a0 ++ f.rsv0 ++ f.bg ++ f.color ++ f.op

/-- Every field zero. -/
def Fields.zero : Fields := ⟨0, 0, 0, 0, 0, 0, 0, 0, 0, 0⟩

/-- The low byte of an operand field, A0[7:0], A2[7:0] or A3[7:0] (30_encoding R53). -/
def lowByte (v : Half) : Byte := v.extractLsb' 0 8

/-- A byte operand in its field, the high byte zero (30_encoding R53). -/
def byteField (b : Byte) : Half := b.zeroExtend 16

/-! ### Formats and opcodes -/

/-- The ten formats (30_encoding R53). -/
inductive Format where
  | z
  | c
  | u
  | n
  | p
  | s
  | q
  | g
  | w
  | b
  deriving DecidableEq, Repr

/-- The bits a format uses, field by field, OP apart; every other bit must be zero (30_encoding R53). -/
def Format.used : Format → Fields
  | .z => Fields.zero
  | .c => { Fields.zero with color := 3 }
  | .u => { Fields.zero with a0 := 0xFFFF, a1 := 0xFFFF }
  | .n => { Fields.zero with a0 := 0x00FF }
  | .p => { Fields.zero with color := 3, a0 := 0xFFFF, a1 := 0xFFFF }
  | .s => { Fields.zero with color := 3, a0 := 0xFFFF, a1 := 0xFFFF, a2 := 0xFFFF }
  | .q => { Fields.zero with color := 3, a0 := 0xFFFF, a1 := 0xFFFF, a2 := 0xFFFF, a3 := 0xFFFF }
  | .g => { Fields.zero with color := 3, bg := 3, a0 := 0xFFFF, a1 := 0xFFFF, a2 := 0x00FF, a3 := 0x00FF }
  | .w => { Fields.zero with a2 := 0x00FF }
  | .b => { Fields.zero with color := 3, bg := 3, a0 := 0xFFFF, a1 := 0xFFFF, a2 := 0xFFFF, a3 := 0xFFFF,
                             base := 0xFFFFFFFF }

/-- Every bit outside OP that the format does not use is zero (30_encoding R51, R53; R58 code 2). -/
def Fields.unusedZero (f used : Fields) : Bool :=
  f.color &&& ~~~used.color == 0 && f.bg &&& ~~~used.bg == 0 && f.rsv0 == 0 && f.rsv1 == 0
    && f.a0 &&& ~~~used.a0 == 0 && f.a1 &&& ~~~used.a1 == 0 && f.a2 &&& ~~~used.a2 == 0
    && f.a3 &&& ~~~used.a3 == 0 && f.base &&& ~~~used.base == 0

/-- The seventeen operations (30_encoding R56). -/
inductive Opcode where
  | init
  | update
  | on
  | off
  | clear
  | fillscreen
  | setlocation
  | settextsize
  | drawpixel
  | drawline
  | drawfastvline
  | drawfasthline
  | fillrect
  | drawchar
  | drawcharfont2
  | write
  | drawbitmap
  deriving DecidableEq, Repr

namespace Opcode

/-- OP of each operation (30_encoding R56). -/
def byte : Opcode → Byte
  | .init => 0x01
  | .update => 0x02
  | .on => 0x03
  | .off => 0x04
  | .clear => 0x05
  | .fillscreen => 0x06
  | .setlocation => 0x07
  | .settextsize => 0x08
  | .drawpixel => 0x10
  | .drawline => 0x11
  | .drawfastvline => 0x12
  | .drawfasthline => 0x13
  | .fillrect => 0x14
  | .drawchar => 0x20
  | .drawcharfont2 => 0x21
  | .write => 0x22
  | .drawbitmap => 0x30

/-- The format of each operation (30_encoding R56). -/
def format : Opcode → Format
  | .init => .z
  | .update => .z
  | .on => .z
  | .off => .z
  | .clear => .z
  | .fillscreen => .c
  | .setlocation => .u
  | .settextsize => .n
  | .drawpixel => .p
  | .drawline => .q
  | .drawfastvline => .s
  | .drawfasthline => .s
  | .fillrect => .q
  | .drawchar => .g
  | .drawcharfont2 => .g
  | .write => .w
  | .drawbitmap => .b

/-- All operations, in the order of the opcode map. -/
def all : List Opcode :=
  [.init, .update, .on, .off, .clear, .fillscreen, .setlocation, .settextsize, .drawpixel, .drawline,
   .drawfastvline, .drawfasthline, .fillrect, .drawchar, .drawcharfont2, .write, .drawbitmap]

/-- The operation with a given OP; every other value of OP is reserved (30_encoding R56). -/
def ofByte (b : Byte) : Option Opcode := all.find? (fun o => o.byte == b)

end Opcode

/-! ### Decoder -/

/-- The colour with a given code; 3 is reserved (30_encoding R54, R58). -/
def Colour.ofBits (v : BitVec 2) : Option Colour :=
  if v = 0 then some .off else if v = 1 then some .on else if v = 2 then some .inverse else none

/-- The code of a colour (00_scope R4). -/
def Colour.bits : Colour → BitVec 2
  | .off => 0
  | .on => 1
  | .inverse => 2

/-- A colour field, or code 3 (30_encoding R58). -/
def colourField (v : BitVec 2) : Except IllegalCode Colour :=
  match Colour.ofBits v with
  | some c => .ok c
  | none => .error .reservedColour

/-- A scale operand, or code 4 (30_encoding R58). -/
def scaleField (v : Byte) : Except IllegalCode Byte :=
  if v = 0 then .error .zeroScale else .ok v

/-- The operands of a word whose reserved fields are zero: the value checks of 30_encoding R57, colours before the
scale (R58), and the field of each operand (R53, R59). -/
def Opcode.operands (o : Opcode) (f : Fields) : Except IllegalCode Instr :=
  match o with
  | .init => .ok .init
  | .update => .ok .update
  | .on => .ok .on
  | .off => .ok .off
  | .clear => .ok .clear
  | .fillscreen => (colourField f.color).bind fun c => .ok (.fillscreen c)
  | .setlocation => .ok (.setlocation f.a0 f.a1)
  | .settextsize => (scaleField (lowByte f.a0)).bind fun n => .ok (.settextsize n)
  | .drawpixel => (colourField f.color).bind fun c => .ok (.drawpixel f.a0 f.a1 c)
  | .drawline => (colourField f.color).bind fun c => .ok (.drawline f.a0 f.a1 f.a2 f.a3 c)
  | .drawfastvline => (colourField f.color).bind fun c => .ok (.drawfastvline f.a0 f.a1 f.a2 c)
  | .drawfasthline => (colourField f.color).bind fun c => .ok (.drawfasthline f.a0 f.a1 f.a2 c)
  | .fillrect => (colourField f.color).bind fun c => .ok (.fillrect f.a0 f.a1 f.a2 f.a3 c)
  | .drawchar =>
    (colourField f.color).bind fun c => (colourField f.bg).bind fun b =>
      (scaleField (lowByte f.a3)).bind fun n => .ok (.drawchar f.a0 f.a1 (lowByte f.a2) c b n)
  | .drawcharfont2 =>
    (colourField f.color).bind fun c => (colourField f.bg).bind fun b =>
      (scaleField (lowByte f.a3)).bind fun n => .ok (.drawcharfont2 f.a0 f.a1 (lowByte f.a2) c b n)
  | .write => .ok (.write (lowByte f.a2))
  | .drawbitmap =>
    (colourField f.color).bind fun c => (colourField f.bg).bind fun b =>
      .ok (.drawbitmap f.a0 f.a1 f.base f.a2 f.a3 c b)

/-- The command a word encodes, or the code it is refused with: the first that applies, in the order reserved OP,
reserved field, reserved colour, zero scale (30_encoding R57, R58). -/
def decode (w : CmdWord) : Except IllegalCode Instr :=
  match Opcode.ofByte (Fields.ofWord w).op with
  | none => .error .reservedOp
  | some o =>
    if (Fields.ofWord w).unusedZero o.format.used then o.operands (Fields.ofWord w)
    else .error .reservedField

/-! ### Encoder -/

/-- The operation of a command. -/
def Instr.opcode : Instr → Opcode
  | .init => .init
  | .update => .update
  | .on => .on
  | .off => .off
  | .clear => .clear
  | .fillscreen _ => .fillscreen
  | .setlocation _ _ => .setlocation
  | .settextsize _ => .settextsize
  | .drawpixel _ _ _ => .drawpixel
  | .drawline _ _ _ _ _ => .drawline
  | .drawfastvline _ _ _ _ => .drawfastvline
  | .drawfasthline _ _ _ _ => .drawfasthline
  | .fillrect _ _ _ _ _ => .fillrect
  | .drawchar _ _ _ _ _ _ => .drawchar
  | .drawcharfont2 _ _ _ _ _ _ => .drawcharfont2
  | .write _ => .write
  | .drawbitmap _ _ _ _ _ _ _ => .drawbitmap

/-- The fields of a command's word, written from the formats of 30_encoding R53 and R59. -/
def Instr.fields (i : Instr) : Fields :=
  let blank := { Fields.zero with op := i.opcode.byte }
  match i with
  | .init => blank
  | .update => blank
  | .on => blank
  | .off => blank
  | .clear => blank
  | .fillscreen c => { blank with color := c.bits }
  | .setlocation x y => { blank with a0 := x, a1 := y }
  | .settextsize n => { blank with a0 := byteField n }
  | .drawpixel x y c => { blank with a0 := x, a1 := y, color := c.bits }
  | .drawline x0 y0 x1 y1 c => { blank with a0 := x0, a1 := y0, a2 := x1, a3 := y1, color := c.bits }
  | .drawfastvline x y h c => { blank with a0 := x, a1 := y, a2 := h, color := c.bits }
  | .drawfasthline x y w c => { blank with a0 := x, a1 := y, a2 := w, color := c.bits }
  | .fillrect x y w h c => { blank with a0 := x, a1 := y, a2 := w, a3 := h, color := c.bits }
  | .drawchar x y ch c b n =>
    { blank with a0 := x, a1 := y, a2 := byteField ch, a3 := byteField n, color := c.bits, bg := b.bits }
  | .drawcharfont2 x y ch c b n =>
    { blank with a0 := x, a1 := y, a2 := byteField ch, a3 := byteField n, color := c.bits, bg := b.bits }
  | .write ch => { blank with a2 := byteField ch }
  | .drawbitmap x y base w h c b =>
    { blank with a0 := x, a1 := y, a2 := w, a3 := h, base := base, color := c.bits, bg := b.bits }

/-- The command word of a command. -/
def encode (i : Instr) : CmdWord := i.fields.toWord

/-! ### The opcode table -/

/-- A row of opcode_table.json. -/
structure OpcodeRow where
  opcode    : Opcode
  matchBits : CmdWord
  mask      : CmdWord
  deriving DecidableEq, Repr

/-- A word is an instance of a row iff CW AND mask = match (30_encoding R57). -/
def OpcodeRow.admits (r : OpcodeRow) (w : CmdWord) : Bool := w &&& r.mask == r.matchBits

/-- opcode_table.json, row by row. -/
def opcodeTable : List OpcodeRow := [
  ⟨.init, 0x01, 0xFFFFFFFFFFFFFFFFFFFFFFFFFFFFFFFF⟩,
  ⟨.update, 0x02, 0xFFFFFFFFFFFFFFFFFFFFFFFFFFFFFFFF⟩,
  ⟨.on, 0x03, 0xFFFFFFFFFFFFFFFFFFFFFFFFFFFFFFFF⟩,
  ⟨.off, 0x04, 0xFFFFFFFFFFFFFFFFFFFFFFFFFFFFFFFF⟩,
  ⟨.clear, 0x05, 0xFFFFFFFFFFFFFFFFFFFFFFFFFFFFFFFF⟩,
  ⟨.fillscreen, 0x06, 0xFFFFFFFFFFFFFFFFFFFFFFFFFFFFFCFF⟩,
  ⟨.setlocation, 0x07, 0xFFFFFFFFFFFFFFFFFFFF00000000FFFF⟩,
  ⟨.settextsize, 0x08, 0xFFFFFFFFFFFFFFFFFFFFFFFFFF00FFFF⟩,
  ⟨.drawpixel, 0x10, 0xFFFFFFFFFFFFFFFFFFFF00000000FCFF⟩,
  ⟨.drawline, 0x11, 0xFFFFFFFFFFFF0000000000000000FCFF⟩,
  ⟨.drawfastvline, 0x12, 0xFFFFFFFFFFFFFFFF000000000000FCFF⟩,
  ⟨.drawfasthline, 0x13, 0xFFFFFFFFFFFFFFFF000000000000FCFF⟩,
  ⟨.fillrect, 0x14, 0xFFFFFFFFFFFF0000000000000000FCFF⟩,
  ⟨.drawchar, 0x20, 0xFFFFFFFFFFFFFF00FF0000000000F0FF⟩,
  ⟨.drawcharfont2, 0x21, 0xFFFFFFFFFFFFFF00FF0000000000F0FF⟩,
  ⟨.write, 0x22, 0xFFFFFFFFFFFFFFFFFF00FFFFFFFFFFFF⟩,
  ⟨.drawbitmap, 0x30, 0x00000000FFFF0000000000000000F0FF⟩]

/-- The instruction the decoder reads from the word whose bits are `w`, numbered as opcode_table.json numbers them,
the bits from `nbits` up zero. -/
def decodeTableWord (nbits w : Nat) : Option Instr :=
  match decode (BitVec.ofNat 128 (w % 2 ^ nbits)) with
  | .ok i => some i
  | .error _ => none

/-! ### The serialized word -/

/-- A command word as 16 bytes: byte k is CW[8k+7:8k] (30_encoding R52). -/
def CmdWord.toBytes (w : CmdWord) : List Byte := (List.range 16).map fun k => w.extractLsb' (8 * k) 8

/-- The number a little-endian byte string stands for. -/
def littleEndian : List Byte → Nat
  | [] => 0
  | b :: bs => b.toNat + 256 * littleEndian bs

/-- The command word that sixteen bytes carry (30_encoding R52); no other number of bytes is a command word (R51). -/
def CmdWord.ofBytes (bs : List Byte) : Option CmdWord :=
  if bs.length = 16 then some (BitVec.ofNat 128 (littleEndian bs)) else none

/-- Decoding of a byte string: `none` where it is not the sixteen bytes of a command word. -/
def decodeBytes (bs : List Byte) : Option (Except IllegalCode Instr) := (CmdWord.ofBytes bs).map decode

/-! ### The textual form -/

/-- A colour in the textual form (30_encoding R59). -/
def Colour.text : Colour → String
  | .off => "OFF"
  | .on => "ON"
  | .inverse => "INVERSE"

/-- A mnemonic and its operands, separated as 30_encoding R59 writes them. -/
def asmLine (mnemonic : String) (operands : List String) : String :=
  mnemonic ++ " " ++ String.intercalate ", " operands

/-- The textual form of a command, integers in decimal (30_encoding R59). -/
def Instr.text : Instr → String
  | .init => "INIT"
  | .update => "UPDATE"
  | .on => "ON"
  | .off => "OFF"
  | .clear => "CLEAR"
  | .fillscreen c => asmLine "FILLSCREEN" [c.text]
  | .setlocation x y => asmLine "SETLOCATION" [toString x.toNat, toString y.toNat]
  | .settextsize n => asmLine "SETTEXTSIZE" [toString n.toNat]
  | .drawpixel x y c => asmLine "DRAWPIXEL" [toString x.toInt, toString y.toInt, c.text]
  | .drawline x0 y0 x1 y1 c =>
    asmLine "DRAWLINE" [toString x0.toInt, toString y0.toInt, toString x1.toInt, toString y1.toInt, c.text]
  | .drawfastvline x y h c =>
    asmLine "DRAWFASTVLINE" [toString x.toInt, toString y.toInt, toString h.toInt, c.text]
  | .drawfasthline x y w c =>
    asmLine "DRAWFASTHLINE" [toString x.toInt, toString y.toInt, toString w.toInt, c.text]
  | .fillrect x y w h c =>
    asmLine "FILLRECT" [toString x.toInt, toString y.toInt, toString w.toInt, toString h.toInt, c.text]
  | .drawchar x y ch c b n =>
    asmLine "DRAWCHAR" [toString x.toInt, toString y.toInt, toString ch.toNat, c.text, b.text, toString n.toNat]
  | .drawcharfont2 x y ch c b n =>
    asmLine "DRAWCHARFONT2"
      [toString x.toInt, toString y.toInt, toString ch.toNat, c.text, b.text, toString n.toNat]
  | .write ch => asmLine "WRITE" [toString ch.toNat]
  | .drawbitmap x y base w h c b =>
    asmLine "DRAWBITMAP" [toString x.toInt, toString y.toInt, toString base.toNat, toString w.toInt,
      toString h.toInt, c.text, b.text]

end Sys2Proof
end

