-- ==== Sys2Proof/Machine/State.lean ====
section
/-! DEFINITION. The state of the engine (10_state R24, 70_reset R171) with its interfaces (20_memory R30, R40;
30_encoding R50), the reasons a step can stop, and the state after reset. -/

namespace Sys2Proof.Machine

/-- FB, 1024 bytes of fixed number (10_state R13; log 3). -/
abbrev Framebuffer := Vector Byte fbSize

/-- The listed bytes of a byte-addressed space, by address (log 6). -/
abbrev Memory := List Host.Cell

/-- DSTATE; the code 3 is never produced (10_state R18). -/
inductive DState where
  | uninit
  | on
  | off
  deriving DecidableEq, Repr

/-- STATUS, two sticky flags (10_state R20). -/
structure Status where
  illegal : Bool
  busFail : Bool
  deriving DecidableEq, Repr

/-- A transaction of the bus event stream (20_memory R40). The answers are no part of the stream (log 11). -/
inductive BusEvent where
  | busBegin (addr : BitVec 7)
  | busWrite (b : Byte)
  | busEnd
  deriving DecidableEq, Repr

/-- What the transport answers to a transaction: `success` to a BusWrite, `status` to a BusEnd (20_memory R40); to a
BusBegin it answers a handle, which is dropped (20_memory R39). -/
structure BusAnswer where
  success : Bool
  status  : Byte
  deriving DecidableEq, Repr

/-- What reaches the engine from outside between two commands (log 1, 6, 9). -/
inductive Input where
  /-- The host presents a command word (30_encoding R50). -/
  | command (w : CmdWord)
  /-- The environment of BM changes one of its bytes (20_memory R38). -/
  | bitmapWrite (a : BitVec 32) (b : Byte)
  /-- Reset (70_reset R170). -/
  | reset
  deriving DecidableEq, Repr

/-- Why a step stops with no next state. -/
inductive Fault where
  /-- Raised by INIT, ON, OFF and UPDATE when the transport never answers a transaction: the command never completes
  (20_memory R41, 60_exceptions R156). `issued` are the command's transactions up to and including the unanswered
  one. Safe: the engine is stuck there and so is the model (log 8). -/
  | transportStalled (issued : List BusEvent)
  deriving DecidableEq, Repr

/-- Why a step has no meaning. -/
inductive Refusal where
  /-- Raised by exec's arm of an instruction that has no meaning yet. Safe: the model stops. -/
  | notModelled (mnemonic : String)
  deriving DecidableEq, Repr

/-- The engine's state (10_state R24) with its parameters (00_scope R5), the bitmap memory, its channels, and three
fields of the model's own: `transport`, `drawn` and `resets` (log 7, 18). -/
structure State where
  /-- FB (10_state R13). -/
  fb        : Framebuffer
  /-- cur_x (10_state R15). -/
  curX      : Half
  /-- cur_y (10_state R15). -/
  curY      : Half
  /-- textSize, 1..255 (10_state R16). -/
  textSize  : Byte
  /-- wordWrap (10_state R17). -/
  wordWrap  : Bool
  /-- DSTATE (10_state R18). -/
  dstate    : DState
  /-- STATUS (10_state R20). -/
  status    : Status
  /-- The parameters, DEV_ADDR among them (00_scope R5, 10_state R19). -/
  cfg       : Params
  /-- The listed bytes of BM (20_memory R37, R38). -/
  bm        : Memory
  /-- The bus event stream since reset, oldest first (20_memory R40). -/
  bus       : List BusEvent
  /-- The response words since reset, oldest first (30_encoding R50). -/
  responses : List RspWord
  /-- What the host and the environment present next, first one first (30_encoding R50). -/
  inputs    : List Input
  /-- The transport's answers to the next transactions, `none` one that never comes (20_memory R40, R41). -/
  transport : List (Option BusAnswer)
  /-- How many answers have been drawn as free values. -/
  drawn     : Nat
  /-- How many resets there have been. -/
  resets    : Nat
  deriving DecidableEq, Repr

/-- The framebuffer with a given byte at each address. -/
@[irreducible] def Framebuffer.ofBytes (f : Nat → Byte) : Framebuffer := ⟨((List.range fbSize).map f).toArray, by simp⟩

/-- The machine right after reset (70_reset R171): FB unspecified, the cursor at (0, 0), textSize 1, wordWrap the
parameter WORDWRAP_INIT, DSTATE Uninit, STATUS 0, the streams empty. -/
def State.reset : State where
  fb := Framebuffer.ofBytes (Config.freeFbByte 0)
  curX := 0
  curY := 0
  textSize := 1
  wordWrap := Config.params.wordWrapInit
  dstate := .uninit
  status := ⟨false, false⟩
  cfg := Config.params
  bm := []
  bus := []
  responses := []
  inputs := []
  transport := []
  drawn := 0
  resets := 1

end Sys2Proof.Machine
end

