-- ==== Sys2Proof/Machine/Operands.lean ====
section
/-! DEFINITION. How a meaning reads an operand field (30_encoding R53, R54), and what a colour does to one bit
(40_pixel_fill R70). -/

namespace Sys2Proof.Machine

/-- sext_16: a signed 16-bit operand, -32768..32767 (00_scope R7, 30_encoding R54). -/
def sext16 (v : Half) : Int := v.toInt

/-- zext_16: an unsigned 16-bit operand or cursor register (00_scope R7, 30_encoding R54). -/
def zext16 (v : Half) : Nat := v.toNat

/-- zext_8: a character code, a scale or textSize (30_encoding R54). -/
def zext8 (v : Byte) : Nat := v.toNat

/-- zext_32: the bitmap address BASE (30_encoding R54). -/
def zext32 (v : BitVec 32) : Nat := v.toNat

/-- How often a loop over a signed length runs: not at all for a length of 0 or less (00_scope R8, 41_raster R81). -/
def loopCount (length : Int) : Nat := length.toNat

/-- What a pixel becomes when a colour is written to it: ON sets, OFF clears, INVERSE toggles (40_pixel_fill R70). -/
def applyColour (c : Colour) (old : Bool) : Bool :=
  match c with
  | .off => false
  | .on => true
  | .inverse => !old

/-- A byte with one bit written in a colour, the other seven kept (40_pixel_fill R70). -/
def paintBit (c : Colour) (bit : Nat) (v : Byte) : Byte :=
  match c with
  | .on => v ||| (1#8 <<< bit)
  | .off => v &&& ~~~(1#8 <<< bit)
  | .inverse => v ^^^ (1#8 <<< bit)

/-- A byte with all eight bits written in a colour (40_pixel_fill R72). -/
def paintByte (c : Colour) (v : Byte) : Byte :=
  match c with
  | .off => 0x00
  | .on => 0xFF
  | .inverse => v ^^^ 0xFF

end Sys2Proof.Machine
end

