-- ==== Sys2Proof/Machine/Flags.lean ====
section
/-! DEFINITION. DSTATE's code, the two sticky flags of STATUS and the response word that reports them
(10_state R18, R20; 30_encoding R55; 60_exceptions R152, R155). -/

namespace Sys2Proof.Machine

/-- The 2-bit code of DSTATE (10_state R18). -/
def DState.bits : DState → BitVec 2
  | .uninit => 0
  | .on => 1
  | .off => 2

/-- STATUS as the 2-bit register: bit 0 ILLEGAL, bit 1 BUSFAIL (10_state R20). -/
def Status.bits (st : Status) : BitVec 2 := BitVec.ofBool st.busFail ++ BitVec.ofBool st.illegal

/-- STATUS.ILLEGAL <- 1 (60_exceptions R152). -/
def State.setIllegal (s : State) : State := { s with status := { s.status with illegal := true } }

/-- Whether the answer to a transaction is a failure: a BusWrite's `success = false`, a BusEnd's `status ≠ 0`; a
BusBegin has no failure answer (60_exceptions R155). -/
def BusEvent.failedBy (e : BusEvent) (a : BusAnswer) : Bool :=
  match e with
  | .busBegin _ => false
  | .busWrite _ => !a.success
  | .busEnd => a.status != 0

/-- STATUS.BUSFAIL <- 1 where a transaction failed; it is never cleared here (60_exceptions R155). -/
def State.noteBusFail (failed : Bool) (s : State) : State :=
  { s with status := { s.status with busFail := s.status.busFail || failed } }

/-- RSP: RET in 15:0, ERR in 19:16, ILLEGAL in 20, BUSFAIL in 21, DSTATE in 23:22, zero above, the flags and DSTATE
as they are after the command (30_encoding R55). -/
def responseWord (ret : BitVec 16) (err : BitVec 4) (s : State) : RspWord :=
  (0 : BitVec 8) ++ s.dstate.bits ++ s.status.bits ++ err ++ ret

end Sys2Proof.Machine
end

