-- ==== Sys2Proof/Machine/Ops.lean ====
section
/-! DEFINITION. The shared operations: loops (00_scope R8), FB and PutPixel (20_memory R31, 40_pixel_fill R70), BM
(20_memory R38), transfers (44_display R115, 20_memory R40, R41), completing a command (30_encoding R55), refusing one
(60_exceptions R152) and reset (70_reset R171). -/

namespace Sys2Proof.Machine

/-! ### Loops -/

/-- `for k in 0..n-1` in ascending order (00_scope R8). -/
def forLoop {σ : Type} (body : Nat → σ → σ) : Nat → σ → σ
  | 0, s => s
  | n + 1, s => body n (forLoop body n s)

/-- The same loop from its first iteration on, for running it without deep recursion. -/
def forLoopFrom {σ : Type} (body : Nat → σ → σ) : Nat → Nat → σ → σ
  | 0, _, s => s
  | n + 1, k, s => forLoopFrom body n (k + 1) (body k s)

theorem forLoopFrom_last {σ : Type} (body : Nat → σ → σ) (n k : Nat) (s : σ) :
    forLoopFrom body (n + 1) k s = body (k + n) (forLoopFrom body n k s) := by
  induction n generalizing k s with
  | zero => rfl
  | succ n ih =>
    rw [forLoopFrom, ih, forLoopFrom, Nat.add_right_comm, Nat.add_assoc]

/-- The loop as it is run. -/
def forLoopRun {σ : Type} (body : Nat → σ → σ) (n : Nat) (s : σ) : σ := forLoopFrom body n 0 s

@[csimp] theorem forLoop_eq_forLoopRun : @forLoop = @forLoopRun := by
  funext σ body n s
  induction n with
  | zero => rfl
  | succ n ih => rw [forLoop, ih, forLoopRun, forLoopRun, forLoopFrom_last, Nat.zero_add]

/-! ### The framebuffer -/

/-- MemRead(FB, a, 1). An address of 1024 or more is never generated (20_memory R35); it reads as 0 here. -/
def Framebuffer.read (fb : Framebuffer) (a : Nat) : Byte := if h : a < fbSize then fb[a] else 0

/-- MemWrite(FB, a, 1, v). An address of 1024 or more is never generated (20_memory R35). -/
def Framebuffer.write (fb : Framebuffer) (a : Nat) (v : Byte) : Framebuffer :=
  if h : a < fbSize then fb.set a v else fb

/-- `for a in 0..1023: FB[a] <- f(FB[a])` (40_pixel_fill R72). -/
def Framebuffer.mapBytes (f : Byte → Byte) (fb : Framebuffer) : Framebuffer :=
  ⟨(fb.toList.map f).toArray, by simp⟩

/-- The address of the byte that holds pixel (x, y) (20_memory R31). -/
def pixelAddr (x y : Nat) : Nat := y / 8 * 128 + x

/-- Pixel(x, y) of 00_scope R8, for x < 128 and y < 64. -/
def pixel (fb : Framebuffer) (x y : Nat) : Bool := (fb.read (pixelAddr x y)).getLsbD (y % 8)

/-- The clip test's complement: (x, y) is on the screen (40_pixel_fill R70). -/
def onScreen (x y : Int) : Bool := 0 ≤ x && x < 128 && 0 ≤ y && y < 64

/-- PutPixel(x, y, c): nothing off the screen, else a read-modify-write of one byte (40_pixel_fill R70). -/
def putPixel (x y : Int) (c : Colour) (fb : Framebuffer) : Framebuffer :=
  if onScreen x y then
    let a := pixelAddr x.toNat y.toNat
    fb.write a (paintBit c (y.toNat % 8) (fb.read a))
  else fb

/-! ### The bitmap source space -/

/-- The canonical form: addresses strictly rising, each below 2^32. An unlisted address has no value listed, and no
entry stands for that (log 6). -/
abbrev Memory.wf (m : Memory) : Prop := m.Pairwise (fun c d => c.1 < d.1) ∧ ∀ c ∈ m, c.1 < 2 ^ 32

/-- The byte listed at an address. -/
def Memory.listed : Memory → Nat → Option Byte
  | [], _ => none
  | (b, v) :: m, a => if a = b then some v else Memory.listed m a

/-- List a byte at an address, in canonical form. -/
def Memory.write : Memory → Nat → Byte → Memory
  | [], a, v => [(a, v)]
  | (b, w) :: m, a, v =>
    if a < b then (a, v) :: (b, w) :: m
    else if a = b then (a, v) :: m
    else (b, w) :: Memory.write m a v

/-- MemRead(BM, a, 1): the byte at a mod 2^32 (20_memory R38); where none is listed, a free value of the address
(log 6). -/
def bmRead (m : Memory) (a : Nat) : Byte :=
  (Memory.listed m (a % 2 ^ 32)).getD (Config.freeBmByte (a % 2 ^ 32))

/-! ### Completing and refusing a command -/

/-- The response of a command (30_encoding R50, R55), with the flags and DSTATE it leaves. -/
def respond (ret : BitVec 16) (err : BitVec 4) (s : State) : State :=
  { s with responses := s.responses ++ [responseWord ret err s] }

/-- A command that was executed answers with its return value and ERR = 0 (10_state R21, 30_encoding R55). -/
def complete (ret : BitVec 16) (s : State) : State := respond ret 0 s

/-- raise IllegalCommand(code): no effect but STATUS.ILLEGAL <- 1; RET = 0 and ERR = code. The engine has no trap
entry and no return from one (60_exceptions R152, R158). -/
def raiseIllegal (code : IllegalCode) (s : State) : State := respond 0 code.bits s.setIllegal

/-! ### The bus -/

/-- Transfer(ctrl, [b1, ..., bn]) (44_display R115). -/
structure Transfer where
  ctrl    : Byte
  payload : List Byte
  deriving DecidableEq, Repr

/-- The transactions of a transfer: the control code once, before the payload (44_display R115, 30_encoding R61). -/
def Transfer.events (addr : BitVec 7) (t : Transfer) : List BusEvent :=
  .busBegin addr :: .busWrite t.ctrl :: (t.payload.map .busWrite ++ [.busEnd])

/-- The transactions of a list of transfers, one after the other. -/
def busEvents (addr : BitVec 7) (ts : List Transfer) : List BusEvent := ts.flatMap (Transfer.events addr)

/-- A command transfer: one display command byte with its arguments (44_display R116). -/
def commandTransfer (p : Params) (bytes : List Byte) : Transfer := ⟨p.ctrlCmd, bytes⟩

/-- The answer to a transaction that the script does not answer: a free value (log 7). -/
def freeAnswer (draw : Nat) : BusAnswer := ⟨Config.freeBusSuccess draw, Config.freeBusStatus draw⟩

/-- Which of the next `n` transactions the transport never answers, if there is one: the first (20_memory R41). -/
def stallAt : List (Option BusAnswer) → Nat → Option Nat
  | [], _ => none
  | a :: as, n =>
    match n, a with
    | 0, _ => none
    | _ + 1, none => some 0
    | n + 1, some _ => (stallAt as n).map (· + 1)

/-- Whether one of the transactions is answered with a failure: the script first, then free answers
(60_exceptions R155). A transaction that is never answered has not failed. -/
def anyFailed : List BusEvent → List (Option BusAnswer) → Nat → Bool
  | [], _, _ => false
  | e :: es, [], d => e.failedBy (freeAnswer d) || anyFailed es [] (d + 1)
  | e :: es, some a :: as, d => e.failedBy a || anyFailed es as d
  | _ :: es, none :: as, d => anyFailed es as d

/-- The state after transactions that were all answered: they stand in the stream whatever the answers were, and
STATUS.BUSFAIL notes a failure (20_memory R40, 44_display R115). -/
def State.afterBus (evs : List BusEvent) (s : State) : State :=
  State.noteBusFail (anyFailed evs s.transport s.drawn)
    { s with
      bus := s.bus ++ evs
      transport := s.transport.drop evs.length
      drawn := s.drawn + (evs.length - s.transport.length) }

/-- A bus command: its transfers in order, each transaction issued when the one before it has been answered, then the
rest of its effect and its response. A transaction that is never answered leaves it stuck (20_memory R41, 44_display
R115, R117; log 8). -/
def busCommand (ts : List Transfer) (after : State → State) (s : State) : Host.Outcome State Fault Refusal :=
  let evs := busEvents s.cfg.devAddr ts
  match stallAt s.transport evs.length with
  | some k => .fault (.transportStalled (evs.take (k + 1)))
  | none => .next (complete 0 (after (s.afterBus evs)))

/-! ### What reaches the engine between commands -/

/-- The environment of BM changes one of its bytes (20_memory R38; log 6). -/
def environmentWrite (a : BitVec 32) (b : Byte) (s : State) : State :=
  { s with bm := Memory.write s.bm (zext32 a) b }


/-- Reset of a running engine (70_reset R170, R171): every register at its reset value, FB unspecified anew, the
streams empty; the parameters, BM, the transport and the pending inputs are not touched (log 9). -/
def State.resetNow (s : State) : State :=
  { s with
    fb := Framebuffer.ofBytes (Config.freeFbByte s.resets)
    curX := 0
    curY := 0
    textSize := 1
    wordWrap := s.cfg.wordWrapInit
    dstate := .uninit
    status := ⟨false, false⟩
    bus := []
    responses := []
    resets := s.resets + 1 }

end Sys2Proof.Machine
end

