-- ==== Sys2Proof/Machine/PixelFill.lean ====
section
/-! DEFINITION. DRAWPIXEL, FILLSCREEN, CLEAR (40_pixel_fill.md). -/

namespace Sys2Proof.Machine

/-- A drawing command: FB is mutated in memory, nothing else, and RET = 0 (40_pixel_fill R71, 20_memory R43). -/
def draw (f : Framebuffer → Framebuffer) (s : State) : State := complete 0 { s with fb := f s.fb }

/-- DRAWPIXEL x, y, color (40_pixel_fill R71). -/
def execDrawpixel (x y : Half) (color : Colour) (s : State) : Host.Outcome State Fault Refusal :=
  .next (draw (putPixel (sext16 x) (sext16 y) color) s)

/-- FILLSCREEN color (40_pixel_fill R72). -/
def execFillscreen (color : Colour) (s : State) : Host.Outcome State Fault Refusal :=
  .next (draw (Framebuffer.mapBytes (paintByte color)) s)

/-- CLEAR (40_pixel_fill R73). -/
def execClear (s : State) : Host.Outcome State Fault Refusal :=
  .next (draw (Framebuffer.mapBytes fun _ => 0x00) s)

end Sys2Proof.Machine
end

