-- ==== Sys2Proof/Machine/Raster.lean ====
section
/-! DEFINITION. DRAWLINE, DRAWFASTVLINE, DRAWFASTHLINE, FILLRECT (41_raster.md). -/

namespace Sys2Proof.Machine

/-- HLine(x, y, w, c): left to right, each pixel once (41_raster R82). -/
def hline (x y w : Int) (c : Colour) (fb : Framebuffer) : Framebuffer :=
  forLoop (fun k => putPixel (x + k) y c) (loopCount w) fb

/-- VLine(x, y, h, c): top to bottom, each pixel once (41_raster R81). -/
def vline (x y h : Int) (c : Colour) (fb : Framebuffer) : Framebuffer :=
  forLoop (fun k => putPixel x (y + k) c) (loopCount h) fb

/-- Rect(x, y, w, h, c): h rows of HLine (41_raster R84). -/
def rect (x y w h : Int) (c : Colour) (fb : Framebuffer) : Framebuffer :=
  forLoop (fun k => hline x (y + k) w c) (loopCount h) fb

/-- The loop of Line: at each step the position is emitted, then `e <- e - dy`, and where `e < 0` the minor axis
steps and `e <- e + dx` (41_raster R80). The count is that of the steps still to come. -/
def lineSteps (dx dy ystep : Int) : Nat → Int → Int → Int → List (Int × Int)
  | 0, _, _, _ => []
  | n + 1, x, y, e =>
    (x, y) ::
      (if e - dy < 0 then lineSteps dx dy ystep n (x + 1) (y + ystep) (e - dy + dx)
       else lineSteps dx dy ystep n (x + 1) y (e - dy))

/-- The positions from (x0, y0) to (x1, y1), x0 ≤ x1, along the major axis x (41_raster R80). -/
def majorPoints (x0 y0 x1 y1 : Int) : List (Int × Int) :=
  let dx := x1 - x0
  lineSteps dx |y1 - y0| (if y0 < y1 then 1 else -1) (loopCount (dx + 1)) x0 y0 (dx / 2)

/-- The same with the end points in either order: left to right on the major axis (41_raster R80). -/
def orderedPoints (x0 y0 x1 y1 : Int) : List (Int × Int) :=
  if x0 > x1 then majorPoints x1 y1 x0 y0 else majorPoints x0 y0 x1 y1

/-- The pixels Line emits, in order: a steep line has its axes swapped before the loop and swapped back on emission
(41_raster R80). -/
def linePoints (x0 y0 x1 y1 : Int) : List (Int × Int) :=
  if |y1 - y0| > |x1 - x0| then (orderedPoints y0 x0 y1 x1).map Prod.swap else orderedPoints x0 y0 x1 y1

/-- PutPixel at each of a list of positions, in order. -/
def plot (ps : List (Int × Int)) (c : Colour) (fb : Framebuffer) : Framebuffer :=
  ps.foldl (fun fb p => putPixel p.1 p.2 c fb) fb

/-- Line(x0, y0, x1, y1, c) (41_raster R80). -/
def line (x0 y0 x1 y1 : Int) (c : Colour) (fb : Framebuffer) : Framebuffer := plot (linePoints x0 y0 x1 y1) c fb

/-- DRAWLINE x0, y0, x1, y1, color (41_raster R80). -/
def execDrawline (x0 y0 x1 y1 : Half) (color : Colour) (s : State) : Host.Outcome State Fault Refusal :=
  .next (draw (line (sext16 x0) (sext16 y0) (sext16 x1) (sext16 y1) color) s)

/-- DRAWFASTVLINE x, y, h, color (41_raster R81). -/
def execDrawfastvline (x y h : Half) (color : Colour) (s : State) : Host.Outcome State Fault Refusal :=
  .next (draw (vline (sext16 x) (sext16 y) (sext16 h) color) s)

/-- DRAWFASTHLINE x, y, w, color (41_raster R82). -/
def execDrawfasthline (x y w : Half) (color : Colour) (s : State) : Host.Outcome State Fault Refusal :=
  .next (draw (hline (sext16 x) (sext16 y) (sext16 w) color) s)

/-- FILLRECT x, y, w, h, color (41_raster R84). -/
def execFillrect (x y w h : Half) (color : Colour) (s : State) : Host.Outcome State Fault Refusal :=
  .next (draw (rect (sext16 x) (sext16 y) (sext16 w) (sext16 h) color) s)

end Sys2Proof.Machine
end

