-- ==== Sys2Proof/Machine/Glyph.lean ====
section
/-! DEFINITION. DRAWCHAR, DRAWCHARFONT2, SETLOCATION, SETTEXTSIZE, WRITE (42_glyph.md). -/

namespace Sys2Proof.Machine

/-- A font as the renderer sees it: is pixel (column i, row j) of a code's glyph foreground (42_glyph R92). -/
abbrev GlyphPixels := Byte → Nat → Nat → Bool

/-- Width of the font1 cell (00_scope R4). -/
abbrev font1W : Nat := 5

/-- Height of the font1 cell (00_scope R4). -/
abbrev font1H : Nat := 7

/-- G1(c, i, j) = FONT1(c)[i][j]: byte i is column i, bit j is row j from the top, bit 7 ignored (42_glyph R90). -/
def g1 (p : Params) : GlyphPixels := fun c i j =>
  if h : i < font1W then (p.font1[c.toNat]'c.isLt)[i].getLsbD j else false

/-- G2(c, i, j), 0 where nothing is given (42_glyph R91). -/
def g2 (p : Params) : GlyphPixels := fun c i j =>
  (((p.font2[c.toNat]'c.isLt)[i]?.getD [])[j]?).getD false

/-- What the renderer does for source pixel (i, j): a block of the foreground, a block of the background, or nothing
where the background equals the foreground (42_glyph R92). -/
def glyphBlock (g : GlyphPixels) (x y : Int) (c : Byte) (fg bg : Colour) (s i j : Nat) (fb : Framebuffer) :
    Framebuffer :=
  if g c i j then rect (x + i * s) (y + j * s) s s fg fb
  else if bg ≠ fg then rect (x + i * s) (y + j * s) s s bg fb
  else fb

/-- Glyph(G, gw, gh, x, y, c, fg, bg, s) (42_glyph R92). -/
def glyph (g : GlyphPixels) (gw gh : Nat) (x y : Int) (c : Byte) (fg bg : Colour) (s : Nat) (fb : Framebuffer) :
    Framebuffer :=
  forLoop (fun i => forLoop (fun j => glyphBlock g x y c fg bg s i j) gh) gw fb

/-- A glyph command: a scale of 0 is refused with code 4 (30_encoding R58), and the decoder lets none through; else
the glyph is drawn and neither the cursor nor textSize is read or written (42_glyph R93). -/
def drawGlyph (g : GlyphPixels) (gw gh : Nat) (x y : Half) (c : Byte) (color bg : Colour) (size : Byte) (s : State) :
    State :=
  if size = 0 then raiseIllegal .zeroScale s
  else draw (glyph g gw gh (sext16 x) (sext16 y) c color bg (zext8 size)) s

/-- DRAWCHAR x, y, c, color, bg, size (42_glyph R93). -/
def execDrawchar (x y : Half) (c : Byte) (color bg : Colour) (size : Byte) (s : State) :
    Host.Outcome State Fault Refusal :=
  .next (drawGlyph (g1 s.cfg) font1W font1H x y c color bg size s)

/-- DRAWCHARFONT2 x, y, c, color, bg, size (42_glyph R94). -/
def execDrawcharfont2 (x y : Half) (c : Byte) (color bg : Colour) (size : Byte) (s : State) :
    Host.Outcome State Fault Refusal :=
  .next (drawGlyph (g2 s.cfg) s.cfg.f2w s.cfg.f2h x y c color bg size s)

/-- SETLOCATION x, y (42_glyph R96). -/
def execSetlocation (x y : Half) (s : State) : Host.Outcome State Fault Refusal :=
  .next (complete 0 { s with curX := x, curY := y })

/-- SETTEXTSIZE n: 0 is refused with code 4 and leaves textSize as it was (42_glyph R97). -/
def execSettextsize (n : Byte) (s : State) : Host.Outcome State Fault Refusal :=
  .next (if n = 0 then raiseIllegal .zeroScale s else complete 0 { s with textSize := n })

/-- A cursor register after an addition, mod 2^16 (10_state R15). -/
def cursorValue (n : Nat) : Half := BitVec.ofNat 16 n

/-- gap(ts) (42_glyph R98). -/
def glyphGap (p : Params) (ts : Nat) : Nat := if p.gapScaled then ts else 1

/-- The row of text below: one cell height times textSize further down (42_glyph R98). -/
def nextTextRow (s : State) : Half := cursorValue (zext16 s.curY + font1H * zext8 s.textSize)

/-- WRITE of the newline code: left margin, next text row; nothing is drawn (42_glyph R98, R99). -/
def writeNewline (s : State) : State := { s with curX := 0, curY := nextTextRow s }

/-- Whether word wrap moves the next glyph to a new text row: its last column would lie beyond 127 (42_glyph R98). -/
def wrapsBefore (s : State) : Bool := s.wordWrap && 128 < zext16 s.curX + font1W * zext8 s.textSize

/-- The cursor at which the next glyph is drawn: the wrap is that of a newline (42_glyph R98). -/
def wrapCursor (s : State) : State := if wrapsBefore s then writeNewline s else s

/-- The glyph at the cursor, zero-extended, in the text colours; then the cursor advances by the cell and the gap
(42_glyph R98). -/
def writeGlyph (c : Byte) (s : State) : State :=
  let ts := zext8 s.textSize
  { s with
    fb := glyph (g1 s.cfg) font1W font1H (zext16 s.curX) (zext16 s.curY) c s.cfg.textFg s.cfg.textBg ts s.fb
    curX := cursorValue (zext16 s.curX + font1W * ts + glyphGap s.cfg ts) }

/-- WRITE c (42_glyph R98). -/
def execWrite (c : Byte) (s : State) : Host.Outcome State Fault Refusal :=
  .next (complete 1 (if c = s.cfg.newlineCode then writeNewline s else writeGlyph c (wrapCursor s)))

end Sys2Proof.Machine
end

