-- ==== Sys2Proof/Machine/Blit.lean ====
section
/-! DEFINITION. DRAWBITMAP (43_blit.md). -/

namespace Sys2Proof.Machine

/-- ceil8(w): bytes per row of a bitmap of w columns (00_scope R7, 43_blit R110). -/
def rowBytes (w : Nat) : Nat := (w + 7) / 8

/-- SrcBit(base, width, i, j): rows of `rowBytes width` bytes, the leftmost pixel of a byte in bit 7 (43_blit R110). -/
def srcBit (m : Memory) (base width i j : Nat) : Bool :=
  (bmRead m (base + j * rowBytes width + i / 8)).getLsbD (7 - i % 8)

/-- The copy: a set bit writes `color`, a clear bit writes `bg`, each destination pixel once, clipped like any pixel
(43_blit R111). -/
def bitmap (m : Memory) (x y : Int) (base width height : Nat) (color bg : Colour) (fb : Framebuffer) : Framebuffer :=
  forLoop (fun j => forLoop (fun i =>
    putPixel (x + i) (y + j) (if srcBit m base width i j then color else bg)) width) height fb

/-- DRAWBITMAP x, y, base, width, height, color, bg (43_blit R111). -/
def execDrawbitmap (x y : Half) (base : BitVec 32) (width height : Half) (color bg : Colour) (s : State) :
    Host.Outcome State Fault Refusal :=
  .next (draw (bitmap s.bm (sext16 x) (sext16 y) (zext32 base) (loopCount (sext16 width))
    (loopCount (sext16 height)) color bg) s)

end Sys2Proof.Machine
end

