-- ==== Sys2Proof/Machine/Display.lean ====
section
/-! DEFINITION. INIT, ON, OFF, UPDATE and the page/column sequencer (44_display.md). -/

namespace Sys2Proof.Machine

/-- The fourteen command transfers of INIT, in the order that must not be changed (44_display R118, R119). -/
def initTransfers (p : Params) : List Transfer := [
  commandTransfer p [p.opcDisplayOff],
  commandTransfer p [p.opcClockDiv, p.argClockDiv],
  commandTransfer p [p.opcMultiplex, p.argMultiplex],
  commandTransfer p [p.opcDisplayOffset, p.argDisplayOffset],
  commandTransfer p [p.opcStartLine],
  commandTransfer p [p.opcChargePump, p.argChargePump],
  commandTransfer p [p.opcSegRemap],
  commandTransfer p [p.opcComScan],
  commandTransfer p [p.opcComPins, p.argComPins],
  commandTransfer p [p.opcContrast, p.argContrast],
  commandTransfer p [p.opcPrecharge, p.argPrecharge],
  commandTransfer p [p.opcVcomDetect, p.argVcomDetect],
  commandTransfer p [p.opcMemoryMode, p.argMemoryMode],
  commandTransfer p [p.opcDisplayOn]]

/-- The window: columns 0..127, then pages 0..7 (44_display R122). -/
def windowTransfers (p : Params) : List Transfer := [
  commandTransfer p [p.opcColumnAddr, 0, 127],
  commandTransfer p [p.opcPageAddr, 0, 7]]

/-- The n bytes FB[a], ..., FB[a+n-1], unmodified (30_encoding R64). -/
def fbBytes (fb : Framebuffer) (a n : Nat) : List Byte := (List.range n).map fun k => fb.read (a + k)

/-- The sequencer: from address a on, data transfers of at most CHUNK bytes until 1024 bytes are sent (44_display
R122, R123). The first argument bounds the number of transfers; 1024 is always enough, since CHUNK ≥ 1 (log 15). -/
def dataTransfers (p : Params) (fb : Framebuffer) : Nat → Nat → List Transfer
  | 0, _ => []
  | fuel + 1, a =>
    if a < fbSize then
      let n := min p.chunk (fbSize - a)
      ⟨p.ctrlData, fbBytes fb a n⟩ :: dataTransfers p fb fuel (a + n)
    else []

/-- The transfers of UPDATE (44_display R122). -/
def updateTransfers (p : Params) (fb : Framebuffer) : List Transfer :=
  windowTransfers p ++ dataTransfers p fb fbSize 0

/-- DSTATE follows ON and OFF only once INIT has been sent (44_display R120, R121). -/
def State.switchDisplay (d : DState) (s : State) : State :=
  { s with dstate := if s.dstate = .uninit then .uninit else d }

/-- INIT (44_display R118). -/
def execInit (s : State) : Host.Outcome State Fault Refusal :=
  busCommand (initTransfers s.cfg) (fun t => { t with dstate := .on }) s

/-- ON (44_display R120). -/
def execOn (s : State) : Host.Outcome State Fault Refusal :=
  busCommand [commandTransfer s.cfg [s.cfg.opcDisplayOn]] (State.switchDisplay .on) s

/-- OFF (44_display R121). -/
def execOff (s : State) : Host.Outcome State Fault Refusal :=
  busCommand [commandTransfer s.cfg [s.cfg.opcDisplayOff]] (State.switchDisplay .off) s

/-- UPDATE (44_display R122). -/
def execUpdate (s : State) : Host.Outcome State Fault Refusal :=
  busCommand (updateTransfers s.cfg s.fb) id s

end Sys2Proof.Machine
end

