-- ==== Sys2Proof/Machine/Dispatch.lean ====
section
/-! DEFINITION. One arm per command, each one call of its meaning. -/

namespace Sys2Proof.Machine

/-- The execution of one command (30_encoding R56). -/
def exec (i : Instr) (s : State) : Host.Outcome State Fault Refusal :=
  match i with
  | .init => Sys2Proof.Machine.execInit s
  | .update => Sys2Proof.Machine.execUpdate s
  | .on => Sys2Proof.Machine.execOn s
  | .off => Sys2Proof.Machine.execOff s
  | .clear => Sys2Proof.Machine.execClear s
  | .fillscreen color => Sys2Proof.Machine.execFillscreen color s
  | .setlocation x y => Sys2Proof.Machine.execSetlocation x y s
  | .settextsize n => Sys2Proof.Machine.execSettextsize n s
  | .drawpixel x y color => Sys2Proof.Machine.execDrawpixel x y color s
  | .drawline x0 y0 x1 y1 color => Sys2Proof.Machine.execDrawline x0 y0 x1 y1 color s
  | .drawfastvline x y h color => Sys2Proof.Machine.execDrawfastvline x y h color s
  | .drawfasthline x y w color => Sys2Proof.Machine.execDrawfasthline x y w color s
  | .fillrect x y w h color => Sys2Proof.Machine.execFillrect x y w h color s
  | .drawchar x y c color bg size => Sys2Proof.Machine.execDrawchar x y c color bg size s
  | .drawcharfont2 x y c color bg size => Sys2Proof.Machine.execDrawcharfont2 x y c color bg size s
  | .write c => Sys2Proof.Machine.execWrite c s
  | .drawbitmap x y base width height color bg => Sys2Proof.Machine.execDrawbitmap x y base width height color bg s

end Sys2Proof.Machine
end

