-- ==== Sys2Proof/Machine/Accept.lean ====
section
/-! DEFINITION. Acceptance of a command word (30_encoding R50, R57, R58). -/

namespace Sys2Proof.Machine

/-- A command word, taken from the host at the moment of issue: executed where it decodes, refused with its code
where it does not (30_encoding R57, R58; 20_memory R45). -/
def acceptWord (w : CmdWord) (s : State) : Host.Outcome State Fault Refusal :=
  match decode w with
  | .ok i => exec i s
  | .error code => .next (raiseIllegal code s)

/-- Commands one after another, each seeing all effects of those before it (70_reset R186), as long as they complete. -/
def execAll : List Instr → State → Host.Outcome State Fault Refusal
  | [], s => .next s
  | i :: is, s =>
    match exec i s with
    | .next t => execAll is t
    | .fault r => .fault r
    | .refused r => .refused r

end Sys2Proof.Machine
end

