-- ==== Sys2Proof/Machine/Step.lean ====
section
/-! DEFINITION. One step: the next input is taken from the channel and acted on (30_encoding R50, 20_memory R36). -/

namespace Sys2Proof.Machine

/-- One step. With nothing presented the engine is idle and nothing changes (60_exceptions R163; log 2). A command
word is executed, or refused with its code (30_encoding R57, R58); the environment's write to BM and a reset take
effect between commands (20_memory R38, 70_reset R171; log 6, log 9). -/
def step (s : State) : Host.Outcome State Fault Refusal :=
  match s.inputs with
  | [] => .next s
  | .command w :: rest => acceptWord w { s with inputs := rest }
  | .bitmapWrite a b :: rest => .next (environmentWrite a b { s with inputs := rest })
  | .reset :: rest => .next (State.resetNow { s with inputs := rest })

/-- The state with the word of `w`'s low `nbits` bits as the next command presented (log 1). -/
def State.withFetchWord (s : State) (nbits w : Nat) : State :=
  { s with inputs := .command (BitVec.ofNat 128 (w % 2 ^ nbits)) :: s.inputs }

end Sys2Proof.Machine
end

