-- ==== Sys2Proof/Machine/Device.lean ====
section
/-! DEFINITION. The receiving display controller, an ASSUMPTION ABOUT THE ENVIRONMENT and no part of the engine
(45_display_side_reference.md, informative; log 12): what an SSD1306-class device does with the bus event stream.
Every transaction is delivered whatever the transport's answer to it (DESIGN CHOICE, log 22). Where the spec gives the
device no behaviour the answer is `none`. -/

namespace Sys2Proof.Machine

/-- Where the device is in a transfer (45_display_side_reference R141). -/
inductive RxPhase where
  /-- Between transfers. -/
  | idle
  /-- Addressed, the control byte is next. -/
  | control
  /-- After the control byte 0x00: every byte is command stream. -/
  | commands
  /-- After the control byte 0x40: every byte is a data byte. -/
  | data
  /-- In a transfer addressed to another device. -/
  | other
  deriving DecidableEq, Repr

/-- The settings that do not affect the display RAM (45_display_side_reference R140, R143). -/
structure PanelSettings where
  clockDiv      : Byte
  multiplex     : Byte
  displayOffset : Byte
  startLine     : BitVec 6
  chargePump    : Byte
  segRemap      : Bool
  comScanDec    : Bool
  comPins       : Byte
  contrast      : Byte
  precharge     : Byte
  vcomDetect    : Byte
  deriving DecidableEq, Repr

/-- The device's state (45_display_side_reference R140) with its receive position (R141, R142). -/
structure Device where
  addr    : BitVec 7
  gddram  : Vector (Vector Byte 128) 8
  cp      : BitVec 7
  pp      : BitVec 3
  cs      : BitVec 7
  ce      : BitVec 7
  ps      : BitVec 3
  pe      : BitVec 3
  mode    : BitVec 2
  disp    : Bool
  panel   : PanelSettings
  rx      : RxPhase
  /-- The bytes of a command whose arguments have not all come; kept across transfers (R142). -/
  pending : List Byte
  deriving DecidableEq, Repr

/-- GDDRAM[p][c] for p < 8, c < 128 (45_display_side_reference R140); 0 elsewhere. -/
def Device.ram (d : Device) (p c : Nat) : Byte := if h : p < 8 ∧ c < 128 then (d.gddram[p]'h.1)[c]'h.2 else 0

/-- The device pixel at column x, row y (45_display_side_reference R140). -/
def Device.pixel (d : Device) (x y : Nat) : Bool := (d.ram (y / 8) x).getLsbD (y % 8)

/-- The commands the engine sends and how many argument bytes follow each (45_display_side_reference R142; 30_encoding
R62). -/
def deviceCommands : List (Byte × Nat) := [
  (0xAE, 0), (0xAF, 0), (0xD5, 1), (0xA8, 1), (0xD3, 1), (0x40, 0), (0x8D, 1), (0xA1, 0), (0xC8, 0), (0xDA, 1),
  (0x81, 1), (0xD9, 1), (0xDB, 1), (0x20, 1), (0x21, 2), (0x22, 2)]

/-- Effects of a command with its arguments on everything but the receive position (45_display_side_reference R143). -/
def Device.perform (op a b : Byte) (d : Device) : Device :=
  if op = 0xAE then { d with disp := false }
  else if op = 0xAF then { d with disp := true }
  else if op = 0x20 then { d with mode := a.extractLsb' 0 2 }
  else if op = 0x21 then
    { d with cs := a.extractLsb' 0 7, ce := b.extractLsb' 0 7, cp := a.extractLsb' 0 7 }
  else if op = 0x22 then
    { d with ps := a.extractLsb' 0 3, pe := b.extractLsb' 0 3, pp := a.extractLsb' 0 3 }
  else if op = 0xD5 then { d with panel := { d.panel with clockDiv := a } }
  else if op = 0xA8 then { d with panel := { d.panel with multiplex := a } }
  else if op = 0xD3 then { d with panel := { d.panel with displayOffset := a } }
  else if op = 0x40 then { d with panel := { d.panel with startLine := 0 } }
  else if op = 0x8D then { d with panel := { d.panel with chargePump := a } }
  else if op = 0xA1 then { d with panel := { d.panel with segRemap := true } }
  else if op = 0xC8 then { d with panel := { d.panel with comScanDec := true } }
  else if op = 0xDA then { d with panel := { d.panel with comPins := a } }
  else if op = 0x81 then { d with panel := { d.panel with contrast := a } }
  else if op = 0xD9 then { d with panel := { d.panel with precharge := a } }
  else if op = 0xDB then { d with panel := { d.panel with vcomDetect := a } }
  else d

/-- A byte of the command stream: it completes the pending command, or is one more byte of it; a command the engine
does not send has no behaviour here (45_display_side_reference R142, R148). -/
def Device.commandByte (v : Byte) (d : Device) : Option Device :=
  let bytes := d.pending ++ [v]
  match deviceCommands.lookup (bytes.headD v) with
  | none => none
  | some n =>
    if bytes.length = n + 1 then
      some { d.perform (bytes.getD 0 0) (bytes.getD 1 0) (bytes.getD 2 0) with pending := [] }
    else some { d with pending := bytes }

/-- The byte at the pointers written. -/
def Device.store (v : Byte) (d : Device) : Device :=
  { d with gddram := d.gddram.set d.pp.toNat ((d.gddram[d.pp.toNat]'d.pp.isLt).set d.cp.toNat v d.cp.isLt) d.pp.isLt }

/-- The pointers after a data byte in horizontal mode (45_display_side_reference R144). A pointer that would leave its
range has no behaviour here (log 13). -/
def Device.advance (d : Device) : Option Device :=
  if d.cp = d.ce then
    if d.pp = d.pe then some { d with cp := d.cs, pp := d.ps }
    else if d.pp = 7 then none
    else some { d with cp := d.cs, pp := d.pp + 1 }
  else if d.cp = 127 then none
  else some { d with cp := d.cp + 1 }

/-- A data byte: horizontal mode only; the other modes are not modelled (45_display_side_reference R144). -/
def Device.dataByte (v : Byte) (d : Device) : Option Device :=
  if d.mode = 0 then (d.store v).advance else none

/-- One transaction of the stream as the device receives it (45_display_side_reference R141). -/
def Device.recv (e : BusEvent) (d : Device) : Option Device :=
  match e, d.rx with
  | .busBegin a, .idle => some { d with rx := if a = d.addr then .control else .other }
  | .busBegin _, _ => none
  | .busWrite _, .idle => none
  | .busWrite v, .control =>
    if v = 0x00 then some { d with rx := .commands }
    else if v = 0x40 then some { d with rx := .data }
    else none
  | .busWrite v, .commands => d.commandByte v
  | .busWrite v, .data => d.dataByte v
  | .busWrite _, .other => some d
  | .busEnd, .idle => none
  | .busEnd, _ => some { d with rx := .idle }

/-- A run of transactions as the device receives it, exactly as sent and in order. 45_display_side_reference R146 (A1)
assumes that delivery together with the success of every answer; where an answer is a failure the spec leaves open what
the device receives (10_state R23, 44_display R125).
DESIGN CHOICE, unsafe (log 22): every transaction of the stream is delivered, whatever its answer. -/
def Device.recvAll : List BusEvent → Device → Option Device
  | [], d => some d
  | e :: es, d => (d.recv e).bind (Device.recvAll es)

end Sys2Proof.Machine
end

