-- ==== Sys2Proof/Safety.lean ====
section
/-! DEFINITION. The terms claims are stated in: the invariants of the engine, what a command leaves unchanged, when
the transport answers, and the assumptions on the display device. -/

namespace Sys2Proof

/-- The OPC_* and CTRL_* parameters have their default values and ARG_MEMORYMODE is 0x00; every other parameter is
arbitrary (45_display_side_reference R146, A2). -/
def Params.DefaultWire (p : Params) : Prop :=
  p = { Config.withDefaults p.devAddr p.font1 p.f2wLess1 p.f2hLess1 p.font2 p.wordWrapInit with
        chunkLess1 := p.chunkLess1
        textFg := p.textFg
        textBg := p.textBg
        newlineCode := p.newlineCode
        gapScaled := p.gapScaled
        argClockDiv := p.argClockDiv
        argMultiplex := p.argMultiplex
        argDisplayOffset := p.argDisplayOffset
        argChargePump := p.argChargePump
        argComPins := p.argComPins
        argContrast := p.argContrast
        argPrecharge := p.argPrecharge
        argVcomDetect := p.argVcomDetect }

end Sys2Proof

namespace Sys2Proof.Machine

/-! ### Invariants -/

/-- The bus event stream is a concatenation of transfers to DEV_ADDR, each with a control code of the two and at
least one payload byte (20_memory R40). -/
def State.WellBracketed (s : State) : Prop :=
  ∃ ts : List Transfer, s.bus = busEvents s.cfg.devAddr ts ∧
    ∀ t ∈ ts, t.payload ≠ [] ∧ (t.ctrl = s.cfg.ctrlCmd ∨ t.ctrl = s.cfg.ctrlData)

/-- textSize is 1..255 (10_state R16), the listed bytes of BM are in canonical form, and the bus event stream is well
bracketed (20_memory R40). -/
def State.Inv (s : State) : Prop := s.textSize ≠ 0 ∧ Memory.wf s.bm ∧ s.WellBracketed

/-! ### Frames -/

/-- Nothing but FB differs, and one response with the given RET and ERR = 0 has been added. -/
def DrewOnly (ret : BitVec 16) (s t : State) : Prop :=
  t = { s with fb := t.fb, responses := s.responses ++ [responseWord ret 0 s] }

/-- After a drawing operation in one colour: the pixels of the set are painted once, every other pixel of the screen
is as before. -/
def PaintsExactly (c : Colour) (painted : Nat → Nat → Prop) (before after : Framebuffer) : Prop :=
  ∀ px py, px < screenW → py < screenH →
    (painted px py → pixel after px py = applyColour c (pixel before px py)) ∧
    (¬ painted px py → pixel after px py = pixel before px py)

/-! ### The transport -/

/-- The transport answers the next `n` transactions: none of them stalls (20_memory R41). -/
def State.Answers (s : State) (n : Nat) : Prop := stallAt s.transport n = none

/-- The transfers of a command, in order (44_display R117). -/
def transfersOf (i : Instr) (s : State) : List Transfer :=
  match i with
  | .init => initTransfers s.cfg
  | .update => updateTransfers s.cfg s.fb
  | .on => [commandTransfer s.cfg [s.cfg.opcDisplayOn]]
  | .off => [commandTransfer s.cfg [s.cfg.opcDisplayOff]]
  | .clear => []
  | .fillscreen _ => []
  | .setlocation _ _ => []
  | .settextsize _ => []
  | .drawpixel _ _ _ => []
  | .drawline _ _ _ _ _ => []
  | .drawfastvline _ _ _ _ => []
  | .drawfasthline _ _ _ _ => []
  | .fillrect _ _ _ _ _ => []
  | .drawchar _ _ _ _ _ _ => []
  | .drawcharfont2 _ _ _ _ _ _ => []
  | .write _ => []
  | .drawbitmap _ _ _ _ _ _ _ => []

/-- The transactions a command issues in a state, in order (44_display R115, R117). -/
def commandEvents (i : Instr) (s : State) : List BusEvent := busEvents s.cfg.devAddr (transfersOf i s)

/-- The transport's answer to the k-th of the next transactions: the script's, or a free value where the script is
exhausted. A transaction that is never answered has no answer; success stands here for it. -/
def State.answerAt (s : State) (k : Nat) : BusAnswer :=
  match s.transport[k]? with
  | some (some a) => a
  | some none => ⟨true, 0⟩
  | none => freeAnswer (s.drawn + (k - s.transport.length))

/-- What a bus command leaves unchanged: everything but the stream, the transport's position, BUSFAIL, DSTATE and the
responses; one response with RET = 0 and ERR = 0 has been added. -/
def SentOnly (s t : State) : Prop :=
  t = { s with
        bus := t.bus
        transport := t.transport
        drawn := t.drawn
        status := { s.status with busFail := t.status.busFail }
        dstate := t.dstate
        responses := s.responses ++ [responseWord 0 0 t] }

/-! ### Pixels of a drawing command -/

/-- (px, py) lies in the w×h rectangle with its top-left corner at (x, y). -/
def inRect (x y w h : Int) (px py : Nat) : Prop := x ≤ px ∧ (px : Int) < x + w ∧ y ≤ py ∧ (py : Int) < y + h

/-- What becomes of a pixel under a glyph drawn at (x, y) in scale s: in the scaled cell it takes source pixel
((px - x) div s, (py - y) div s); the background is written unless it equals the foreground (42_glyph R92). -/
def GlyphBecomes (g : GlyphPixels) (gw gh : Nat) (x y : Int) (c : Byte) (fg bg : Colour) (s : Nat)
    (before after : Framebuffer) : Prop :=
  ∀ px py, px < screenW → py < screenH →
    (¬ inRect x y (gw * s : Nat) (gh * s : Nat) px py → pixel after px py = pixel before px py) ∧
    (inRect x y (gw * s : Nat) (gh * s : Nat) px py →
      pixel after px py =
        if g c ((px - x).toNat / s) ((py - y).toNat / s) then applyColour fg (pixel before px py)
        else if bg = fg then pixel before px py
        else applyColour bg (pixel before px py))

/-! ### The display device -/

/-- The device is between transfers, no command is half received, and it answers to the engine's DEV_ADDR
(45_display_side_reference R141, R142). -/
def Device.Listening (d : Device) (p : Params) : Prop := d.rx = .idle ∧ d.pending = [] ∧ d.addr = p.devAddr

/-- The device RAM equals FB (45_display_side_reference R147). -/
def Device.Mirrors (d : Device) (fb : Framebuffer) : Prop :=
  ∀ p c, p < 8 → c < 128 → d.ram p c = fb.read (p * 128 + c)

/-- The device is as an INIT leaves it and as later commands keep it: under the default wire parameters it listens in
horizontal mode, and its display bit is DSTATE's On (45_display_side_reference R143, R147; 10_state R18). The relation
does not look at the transport's answers: every transaction reaches the device (DESIGN CHOICE, log 22). -/
structure Device.Follows (d : Device) (s : State) : Prop where
  wire : s.cfg.DefaultWire
  listening : d.Listening s.cfg
  mode : d.mode = 0
  initialized : s.dstate ≠ .uninit
  disp : d.disp = true ↔ s.dstate = .on

end Sys2Proof.Machine
end

