-- ==== Sys2Proof/Certificates/Slice0/Obligations.lean ====
section
/-! DEFINITION. The statements for the provers, from the numbered rules of spec/. -/

open Sys2Proof Sys2Proof.Machine

/-! ### Encoding -/

/-- 95_test_vectors 2.1, V-E1 to V-E12: words of the spec and the commands they stand for. -/
def Obligations.SpecWordsDecodeAsListed : Prop :=
  decode 0x00000000000000000000000A00050110 = .ok (.drawpixel 5 10 .on) ∧
  decode 0x00000000000000010003000000000111 = .ok (.drawline 0 0 3 1 .on) ∧
  decode 0x00000000000000000014003F00780213 = .ok (.drawfasthline 120 63 20 .inverse) ∧
  decode 0x000000000000000200410008000A0120 = .ok (.drawchar 10 8 0x41 .on .off 2) ∧
  decode 0x00001000000000080008000000000130 = .ok (.drawbitmap 0 0 0x1000 8 8 .on .off) ∧
  decode 0x000000000000000000000014000A0007 = .ok (.setlocation 10 20) ∧
  decode 0x00000000000000000000000000000206 = .ok (.fillscreen .inverse) ∧
  decode 0x01 = .ok .init

/-- 30_encoding R51, R53, R56: every well-formed command is what the decoder reads from its own word. -/
def Obligations.DecodeOfEncodeIsTheCommand : Prop :=
  ∀ i : Instr, i.wellFormed = true → decode (encode i) = .ok i

/-- 30_encoding R57, R58: each accepted word has one meaning, a well-formed command, and is that command's word. -/
def Obligations.AcceptedWordIsEncodingOfItsCommand : Prop :=
  ∀ (w : CmdWord) (i : Instr), decode w = .ok i → i.wellFormed = true ∧ encode i = w

/-- 30_encoding R57: the masks are those of the formats, the rows are disjoint, a word of a row is read as that row's
operation or refused with code 3 or 4, and a word of no row is refused with code 1 or 2. -/
def Obligations.DecoderFollowsMatchAndMask : Prop :=
  (∀ o : Opcode, ∃ r ∈ opcodeTable, r.opcode = o) ∧
  (∀ r ∈ opcodeTable, r.mask = ~~~ r.opcode.format.used.toWord ∧ r.matchBits = r.opcode.byte.zeroExtend 128) ∧
  (∀ w, ∀ r ∈ opcodeTable, ∀ q ∈ opcodeTable, r.admits w = true → q.admits w = true → r = q) ∧
  (∀ w, ∀ r ∈ opcodeTable, r.admits w = true →
    (∃ i, decode w = .ok i ∧ i.opcode = r.opcode) ∨ decode w = .error .reservedColour ∨
      decode w = .error .zeroScale) ∧
  (∀ w, (∀ r ∈ opcodeTable, r.admits w = false) →
    decode w = .error .reservedOp ∨ decode w = .error .reservedField)

/-- 30_encoding R58: the code is the first that applies, and a refused command changes nothing but STATUS.ILLEGAL and
answers RET = 0, ERR = code, and the next command is accepted as usual; every other word is one of the seventeen
commands. -/
def Obligations.RefusalCodeIsTheFirstThatApplies : Prop :=
  (∀ (w : CmdWord) (f : Fields), f = Fields.ofWord w →
    ((∀ o : Opcode, o.byte ≠ f.op) → decode w = .error .reservedOp) ∧
    (∀ o : Opcode, o.byte = f.op →
      let u := o.format.used
      let unused := f.color &&& ~~~u.color ≠ 0 ∨ f.bg &&& ~~~u.bg ≠ 0 ∨ f.rsv0 ≠ 0 ∨ f.rsv1 ≠ 0 ∨
        f.a0 &&& ~~~u.a0 ≠ 0 ∨ f.a1 &&& ~~~u.a1 ≠ 0 ∨ f.a2 &&& ~~~u.a2 ≠ 0 ∨ f.a3 &&& ~~~u.a3 ≠ 0 ∨
        f.base &&& ~~~u.base ≠ 0
      let badColour := (u.color ≠ 0 ∧ f.color = 3) ∨ (u.bg ≠ 0 ∧ f.bg = 3)
      let badScale := (o = .settextsize ∧ lowByte f.a0 = 0) ∨
        ((o = .drawchar ∨ o = .drawcharfont2) ∧ lowByte f.a3 = 0)
      (unused → decode w = .error .reservedField) ∧
      (¬ unused → badColour → decode w = .error .reservedColour) ∧
      (¬ unused → ¬ badColour → badScale → decode w = .error .zeroScale) ∧
      (¬ unused → ¬ badColour → ¬ badScale → ∃ i, decode w = .ok i ∧ i.opcode = o))) ∧
  (∀ (s : State) (w : CmdWord) (rest : List Input) (code : IllegalCode),
    s.inputs = .command w :: rest → decode w = .error code →
    ∃ t r, step s = .next t ∧
      t = { s with
            inputs := rest
            status := { s.status with illegal := true }
            responses := s.responses ++ [r] } ∧
      r.extractLsb' 0 16 = (0 : BitVec 16) ∧ r.extractLsb' 16 4 = code.bits ∧
      ∀ (v : CmdWord) (j : Instr) (more : List Input),
        rest = .command v :: more → decode v = .ok j → step t = exec j { t with inputs := more })

/-- 30_encoding R52: byte k of a serialized word is CW[8k+7:8k], and the sixteen bytes carry the word. -/
def Obligations.SerializedWordIsLittleEndian : Prop :=
  ∀ w : CmdWord,
    (CmdWord.toBytes w).length = 16 ∧
    (∀ k, k < 16 → (CmdWord.toBytes w)[k]? = some (w.extractLsb' (8 * k) 8)) ∧
    (CmdWord.toBytes w)[0]? = some (Fields.ofWord w).op ∧
    CmdWord.ofBytes (CmdWord.toBytes w) = some w ∧
    decodeBytes (CmdWord.toBytes w) = some (decode w)

/-! ### Steps -/

/-- 30_encoding R50, R57: a step on a word that decodes is exec of the command, the word taken from the channel. -/
def Obligations.StepRunsTheDecodedCommand : Prop :=
  ∀ (s : State) (w : CmdWord) (i : Instr) (rest : List Input),
    s.inputs = .command w :: rest → decode w = .ok i → step s = exec i { s with inputs := rest }

/-- The model's choice (log 2): with nothing presented a step changes nothing. -/
def Obligations.IdleStepChangesNothing : Prop :=
  ∀ s : State, s.inputs = [] → step s = .next s

/-- 60_exceptions R152: the refusal of a word is precise, the word after it is accepted as usual, and ILLEGAL is
cleared by no step but a reset. -/
def Obligations.IllegalCommandIsPreciseAndSticky : Prop :=
  (∀ (s : State) (w : CmdWord) (rest : List Input) (code : IllegalCode),
    s.inputs = .command w :: rest → decode w = .error code →
    ∃ t r, step s = .next t ∧
      t = { s with inputs := rest, status := ⟨true, s.status.busFail⟩, responses := s.responses ++ [r] } ∧
      r.extractLsb' 0 16 = (0 : BitVec 16) ∧ r.extractLsb' 16 4 = code.bits ∧ r.extractLsb' 20 1 = (1 : BitVec 1) ∧
      ∀ (v : CmdWord) (j : Instr) (more : List Input),
        rest = .command v :: more → decode v = .ok j → step t = exec j { t with inputs := more }) ∧
  (∀ s t : State, step s = .next t → s.inputs.head? ≠ some .reset → s.status.illegal = true →
    t.status.illegal = true)

/-- 30_encoding R55 (and R50): a step on an accepted word appends exactly one response word with RET, ERR, both flags
and DSTATE after the command, and zeros above. -/
def Obligations.EachCommandAnswersOneResponseWord : Prop :=
  ∀ (s t : State) (w : CmdWord) (rest : List Input),
    s.inputs = .command w :: rest → step s = .next t →
    t.inputs = rest ∧
    ∃ r : RspWord, t.responses = s.responses ++ [r] ∧
      r.extractLsb' 0 16 = (match decode w with
        | .ok (.write _) => (1 : BitVec 16)
        | _ => 0) ∧
      r.extractLsb' 16 4 = (match decode w with
        | .ok _ => (0 : BitVec 4)
        | .error code => code.bits) ∧
      r.extractLsb' 20 1 = BitVec.ofBool t.status.illegal ∧
      r.extractLsb' 21 1 = BitVec.ofBool t.status.busFail ∧
      r.extractLsb' 22 2 = t.dstate.bits ∧
      r.extractLsb' 24 8 = (0 : BitVec 8)

/-- 70_reset R171 and 10_state R24: the state after reset, for the elements the spec gives a value. -/
def Obligations.ResetStateHasTheSpecValues : Prop :=
  State.reset.curX = 0 ∧ State.reset.curY = 0 ∧ State.reset.textSize = 1 ∧
  State.reset.wordWrap = State.reset.cfg.wordWrapInit ∧ State.reset.dstate = .uninit ∧
  State.reset.dstate.bits = 0 ∧ State.reset.status.bits = 0 ∧ State.reset.bus = []

/-- 70_reset R171: a reset of any state leaves the listed values, and the parameters and BM are not touched. The
response stream (log 10), the transport and the pending inputs (log 9) are the model's choice. -/
def Obligations.ResetStepLeavesTheSpecValues : Prop :=
  ∀ (s : State) (rest : List Input), s.inputs = .reset :: rest →
    ∃ t, step s = .next t ∧ t.curX = 0 ∧ t.curY = 0 ∧ t.textSize = 1 ∧ t.wordWrap = s.cfg.wordWrapInit ∧
      t.dstate = .uninit ∧ t.status = ⟨false, false⟩ ∧ t.bus = [] ∧ t.cfg = s.cfg ∧ t.bm = s.bm ∧
      t.responses = [] ∧ t.transport = s.transport ∧ t.inputs = rest

/-- 20_memory R38 (log 6): between commands the environment may change one byte of BM; every other byte and the rest
of the engine are as before, and the listing keeps its form. -/
def Obligations.EnvironmentWriteChangesOneBitmapByte : Prop :=
  ∀ (s : State) (a : BitVec 32) (b : Byte) (rest : List Input), s.inputs = .bitmapWrite a b :: rest →
    ∃ t, step s = .next t ∧ t = { s with inputs := rest, bm := t.bm } ∧
      (Memory.wf s.bm → Memory.wf t.bm ∧ bmRead t.bm a.toNat = b ∧
        ∀ x, x % 2 ^ 32 ≠ a.toNat → bmRead t.bm x = bmRead s.bm x)

/-! ### What a command may change -/

/-- 20_memory R43, 44_display R117: only INIT, ON, OFF and UPDATE append to the bus event stream. -/
def Obligations.OnlyBusCommandsAppendToTheStream : Prop :=
  ∀ (i : Instr) (s t : State), exec i s = .next t →
    (i ≠ .init ∧ i ≠ .update ∧ i ≠ .on ∧ i ≠ .off →
      t.bus = s.bus ∧ t.transport = s.transport ∧ t.drawn = s.drawn ∧ t.status.busFail = s.status.busFail) ∧
    (i = .init ∨ i = .update ∨ i = .on ∨ i = .off →
      t.bus = s.bus ++ commandEvents i s ∧ commandEvents i s ≠ [])

/-- 10_state R13: INIT, ON, OFF, UPDATE, SETLOCATION and SETTEXTSIZE do not write FB, and no command but UPDATE sends
anything that depends on it. -/
def Obligations.NonDrawingCommandsKeepTheFramebuffer : Prop :=
  ∀ (i : Instr) (s t : State), exec i s = .next t →
    (i = .init ∨ i = .on ∨ i = .off ∨ i = .update ∨ (∃ x y, i = .setlocation x y) ∨ (∃ n, i = .settextsize n) →
      t.fb = s.fb) ∧
    (i ≠ .update → ∀ fb, commandEvents i { s with fb := fb } = commandEvents i s)

/-- 10_state R15, R16, R17, R19: the cursor is written by WRITE and SETLOCATION only, textSize by SETTEXTSIZE only,
and wordWrap, the parameters, BM, the command channel and the reset count by no command. -/
def Obligations.TextStateWriters : Prop :=
  ∀ (i : Instr) (s t : State), exec i s = .next t →
    (¬ (∃ c, i = .write c) → ¬ (∃ x y, i = .setlocation x y) → t.curX = s.curX ∧ t.curY = s.curY) ∧
    (¬ (∃ n, i = .settextsize n) → t.textSize = s.textSize) ∧
    t.wordWrap = s.wordWrap ∧ t.cfg = s.cfg ∧ t.bm = s.bm ∧ t.inputs = s.inputs ∧ t.resets = s.resets

/-- 10_state R18: INIT sets On from any state, ON and OFF set On and Off unless Uninit, and no other command changes
DSTATE; the code 3 is never produced. -/
def Obligations.DisplayStateTransitions : Prop :=
  ∀ (i : Instr) (s t : State), exec i s = .next t →
    (i = .init → t.dstate = .on) ∧
    (i = .on → t.dstate = if s.dstate = .uninit then .uninit else .on) ∧
    (i = .off → t.dstate = if s.dstate = .uninit then .uninit else .off) ∧
    (i ≠ .init → i ≠ .on → i ≠ .off → t.dstate = s.dstate) ∧
    t.dstate.bits ≠ 3

/-- 60_exceptions R155: an executed command leaves BUSFAIL set iff it was set or one of the transactions was answered
with a failure; the transactions are the same whatever the answers, and ERR stays 0. No step but a reset clears it. -/
def Obligations.BusFailRecordsFailedAnswers : Prop :=
  (∀ (i : Instr) (s t : State), i.wellFormed = true → exec i s = .next t →
    (t.status.busFail = true ↔ s.status.busFail = true ∨
      ∃ k e, (commandEvents i s)[k]? = some e ∧
        ((∃ b, e = .busWrite b ∧ (s.answerAt k).success = false) ∨ (e = .busEnd ∧ (s.answerAt k).status ≠ 0))) ∧
    t.bus = s.bus ++ commandEvents i s ∧
    ∃ r : RspWord, t.responses = s.responses ++ [r] ∧ r.extractLsb' 16 4 = (0 : BitVec 4)) ∧
  (∀ s t : State, step s = .next t → s.inputs.head? ≠ some .reset → s.status.busFail = true →
    t.status.busFail = true)

/-- 20_memory R40: the stream, FB, the cursor, textSize and DSTATE after a command do not depend on the transport's
answers. -/
def Obligations.EffectsDoNotDependOnTheAnswers : Prop :=
  ∀ (i : Instr) (s t u : State) (answers : List (Option BusAnswer)) (n : Nat),
    exec i s = .next t → exec i { s with transport := answers, drawn := n } = .next u →
    u = { t with
          transport := u.transport
          drawn := u.drawn
          status := { t.status with busFail := u.status.busFail }
          responses := u.responses }

/-- 70_reset R187 with 20_memory R41, 60_exceptions R156: a command completes iff the transport answers each of its
transactions. The model's choices: the stuck state is a fault that carries the transactions issued, up to the unanswered
one (log 8), and a transaction beyond the end of the script is always answered (log 7). -/
def Obligations.StalledTransportNeverCompletes : Prop :=
  (∀ (i : Instr) (s : State) (k : Nat), k < (commandEvents i s).length → s.transport[k]? = some none →
    (∀ j, j < k → s.transport[j]? ≠ some none) →
    exec i s = .fault (.transportStalled ((commandEvents i s).take (k + 1)))) ∧
  (∀ (i : Instr) (s : State), (∀ k, k < (commandEvents i s).length → s.transport[k]? ≠ some none) →
    ∃ t, exec i s = .next t)

/-- Every step keeps: textSize ≥ 1 (10_state R16), the canonical form of BM's listing, and the bus event stream well
bracketed with transfers to DEV_ADDR (20_memory R40). -/
def Obligations.StepKeepsTheInvariant : Prop :=
  ∀ s t : State, s.Inv → step s = .next t → t.Inv

/-- The invariant holds after reset. -/
def Obligations.ResetStateMeetsTheInvariant : Prop := State.reset.Inv

/-! ### Pixels and fills -/

/-- 40_pixel_fill R70: off the screen PutPixel changes nothing; on it, it writes one bit of one byte in the colour. -/
def Obligations.PutPixelWritesOneBitOrNothing : Prop :=
  ∀ (x y : Int) (c : Colour) (fb : Framebuffer),
    (x < 0 ∨ 128 ≤ x ∨ y < 0 ∨ 64 ≤ y → putPixel x y c fb = fb) ∧
    (0 ≤ x → x < 128 → 0 ≤ y → y < 64 →
      (∀ k, k < 8 → ((putPixel x y c fb).read (y.toNat / 8 * 128 + x.toNat)).getLsbD k =
        if k = y.toNat % 8 then
          (match c with
            | .on => true
            | .off => false
            | .inverse => !(fb.read (y.toNat / 8 * 128 + x.toNat)).getLsbD k)
        else (fb.read (y.toNat / 8 * 128 + x.toNat)).getLsbD k) ∧
      (∀ a, a < 1024 → a ≠ y.toNat / 8 * 128 + x.toNat → (putPixel x y c fb).read a = fb.read a))

/-- 40_pixel_fill R71: DRAWPIXEL completes, paints its pixel where that is on the screen, and changes nothing else. -/
def Obligations.DrawpixelPaintsItsPixel : Prop :=
  ∀ (x y : Half) (c : Colour) (s : State), ∃ t, exec (.drawpixel x y c) s = .next t ∧ DrewOnly 0 s t ∧
    PaintsExactly c (fun px py => x.toInt = px ∧ y.toInt = py) s.fb t.fb ∧
    ∀ a, a < 1024 → ¬ (onScreen x.toInt y.toInt = true ∧ a = pixelAddr x.toInt.toNat y.toInt.toNat) →
      t.fb.read a = s.fb.read a

/-- 95_test_vectors P1 and P2 (40_pixel_fill R71): ON then OFF leaves an on-screen pixel OFF and every other pixel as
it was; off the screen FB stays byte for byte. -/
def Obligations.DrawpixelOnThenOffRoundTrip : Prop :=
  ∀ (x y : Half) (s t u : State),
    exec (.drawpixel x y .on) s = .next t → exec (.drawpixel x y .off) t = .next u →
    PaintsExactly .off (fun px py => x.toInt = px ∧ y.toInt = py) s.fb u.fb ∧
    (onScreen x.toInt y.toInt = false → u.fb = s.fb)

/-- 40_pixel_fill R72: FILLSCREEN completes and writes every byte; pixel by pixel it paints the whole screen once. -/
def Obligations.FillscreenPaintsEveryByte : Prop :=
  ∀ (c : Colour) (s : State), ∃ t, exec (.fillscreen c) s = .next t ∧ DrewOnly 0 s t ∧
    (∀ a, a < 1024 → t.fb.read a =
      match c with
      | .off => 0x00
      | .on => 0xFF
      | .inverse => s.fb.read a ^^^ 0xFF) ∧
    PaintsExactly c (fun _ _ => True) s.fb t.fb

/-- 40_pixel_fill R73: CLEAR completes with FB all zero, nothing else changed, and does what FILLSCREEN OFF does. -/
def Obligations.ClearZeroesTheFramebuffer : Prop :=
  ∀ s : State, ∃ t, exec .clear s = .next t ∧ DrewOnly 0 s t ∧ (∀ a, a < 1024 → t.fb.read a = 0) ∧
    exec (.fillscreen .off) s = .next t

/-! ### Rasterizer -/

/-- 41_raster R82: DRAWFASTHLINE completes and paints exactly the pixels (x, y) .. (x+w-1, y), each once; none for
w ≤ 0. -/
def Obligations.DrawfasthlinePaintsItsRun : Prop :=
  ∀ (x y w : Half) (c : Colour) (s : State), ∃ t, exec (.drawfasthline x y w c) s = .next t ∧ DrewOnly 0 s t ∧
    PaintsExactly c (fun px py => x.toInt ≤ px ∧ (px : Int) < x.toInt + w.toInt ∧ (py : Int) = y.toInt) s.fb t.fb ∧
    (w.toInt ≤ 0 → t.fb = s.fb)

/-- 41_raster R81: DRAWFASTVLINE completes and paints exactly the pixels (x, y) .. (x, y+h-1), each once; none for
h ≤ 0. -/
def Obligations.DrawfastvlinePaintsItsRun : Prop :=
  ∀ (x y h : Half) (c : Colour) (s : State), ∃ t, exec (.drawfastvline x y h c) s = .next t ∧ DrewOnly 0 s t ∧
    PaintsExactly c (fun px py => (px : Int) = x.toInt ∧ y.toInt ≤ py ∧ (py : Int) < y.toInt + h.toInt) s.fb t.fb ∧
    (h.toInt ≤ 0 → t.fb = s.fb)

/-- 41_raster R84: FILLRECT completes and paints exactly the pixels of its rectangle, each once; none for w ≤ 0 or
h ≤ 0. -/
def Obligations.FillrectPaintsItsRectangle : Prop :=
  ∀ (x y w h : Half) (c : Colour) (s : State), ∃ t, exec (.fillrect x y w h c) s = .next t ∧ DrewOnly 0 s t ∧
    PaintsExactly c (inRect x.toInt y.toInt w.toInt h.toInt) s.fb t.fb ∧
    (w.toInt ≤ 0 ∨ h.toInt ≤ 0 → t.fb = s.fb)

/-- 41_raster R84: a rectangle that covers the screen has the effect of FILLSCREEN, in every colour. -/
def Obligations.FillrectOverTheScreenIsFillscreen : Prop :=
  ∀ (x y w h : Half) (c : Colour) (s : State), x.toInt ≤ 0 → y.toInt ≤ 0 → 128 ≤ x.toInt + w.toInt →
    64 ≤ y.toInt + h.toInt → exec (.fillrect x y w h c) s = exec (.fillscreen c) s

/-- 41_raster R80: DRAWLINE completes and paints exactly the pixels of its line, each once. -/
def Obligations.DrawlinePaintsItsPoints : Prop :=
  ∀ (x0 y0 x1 y1 : Half) (c : Colour) (s : State), ∃ t, exec (.drawline x0 y0 x1 y1 c) s = .next t ∧ DrewOnly 0 s t ∧
    PaintsExactly c
      (fun px py => ((px : Int), (py : Int)) ∈ linePoints x0.toInt y0.toInt x1.toInt y1.toInt) s.fb t.fb

/-- 41_raster R80 (a), (b), (c): one position per major-axis coordinate, no position twice, both end points, and
neighbours one apart on the major axis and at most one on the minor axis. -/
def Obligations.LineHasNoGapsAndBothEnds : Prop :=
  ∀ x0 y0 x1 y1 : Int,
    let ps := linePoints x0 y0 x1 y1
    (ps.length : Int) = max |x1 - x0| |y1 - y0| + 1 ∧ ps.Nodup ∧ (x0, y0) ∈ ps ∧ (x1, y1) ∈ ps ∧
    ∀ k p q, ps[k]? = some p → ps[k + 1]? = some q →
      (|y1 - y0| ≤ |x1 - x0| → q.1 = p.1 + 1 ∧ |q.2 - p.2| ≤ 1) ∧
      (|x1 - x0| < |y1 - y0| → q.2 = p.2 + 1 ∧ |q.1 - p.1| ≤ 1)

/-- 41_raster R80 (d): a line and the line from its end to its start emit the same pixels. -/
def Obligations.LineIsSymmetricInItsEnds : Prop :=
  ∀ x0 y0 x1 y1 : Int, linePoints x1 y1 x0 y0 = linePoints x0 y0 x1 y1

/-- 41_raster R80: the error accumulation in closed form. On a line that is not steep, left to right, the k-th pixel
has gone ⌈(k·dy - ⌊dx/2⌋) / dx⌉ steps on the minor axis; a steep line is the line with its axes swapped, swapped back. -/
def Obligations.LineErrorTermInClosedForm : Prop :=
  (∀ (x0 y0 x1 y1 : Int) (k : Nat), x0 < x1 → |y1 - y0| ≤ x1 - x0 → (k : Int) ≤ x1 - x0 →
    (linePoints x0 y0 x1 y1)[k]? =
      some (x0 + k, y0 + (if y0 < y1 then 1 else -1) *
        ((k * |y1 - y0| - (x1 - x0) / 2 + (x1 - x0) - 1) / (x1 - x0)))) ∧
  (∀ x0 y0 x1 y1 : Int, |x1 - x0| < |y1 - y0| →
    linePoints x0 y0 x1 y1 = (linePoints y0 x0 y1 x1).map Prod.swap)

/-- 41_raster R83: for lengths of 1 or more a fast line changes FB exactly as the general line does, in every colour;
for lengths of 0 or less the fast line draws nothing and the general line has 2 - length pixels. -/
def Obligations.FastLinesAgreeWithTheGeneralLine : Prop :=
  ∀ (x y n : Int) (c : Colour) (fb : Framebuffer),
    (1 ≤ n → hline x y n c fb = line x y (x + n - 1) y c fb ∧ vline x y n c fb = line x y x (y + n - 1) c fb) ∧
    (n ≤ 0 → hline x y n c fb = fb ∧ vline x y n c fb = fb ∧
      ((linePoints x y (x + n - 1) y).length : Int) = 2 - n ∧
      ((linePoints x y x (y + n - 1)).length : Int) = 2 - n)

/-- 70_reset R185: a drawing command with colour INVERSE, executed twice, restores FB. -/
def Obligations.InverseDrawnTwiceRestoresTheFramebuffer : Prop :=
  ∀ (i : Instr) (s t u : State),
    (i = .fillscreen .inverse ∨ (∃ x y, i = .drawpixel x y .inverse) ∨
      (∃ x0 y0 x1 y1, i = .drawline x0 y0 x1 y1 .inverse) ∨ (∃ x y h, i = .drawfastvline x y h .inverse) ∨
      (∃ x y w, i = .drawfasthline x y w .inverse) ∨ (∃ x y w h, i = .fillrect x y w h .inverse) ∨
      (∃ x y ch n, i = .drawchar x y ch .inverse .inverse n) ∨
      (∃ x y ch n, i = .drawcharfont2 x y ch .inverse .inverse n) ∨
      (∃ x y base w h, i = .drawbitmap x y base w h .inverse .inverse)) →
    exec i s = .next t → exec i t = .next u → u.fb = s.fb

/-! ### Glyphs and text -/

/-- 42_glyph R92: a glyph is its cell's pixels, each replicated to an s×s block, the background suppressed where it
equals the foreground; outside the scaled cell nothing is written. -/
def Obligations.GlyphIsScaledByReplication : Prop :=
  ∀ (g : GlyphPixels) (gw gh : Nat) (x y : Int) (c : Byte) (fg bg : Colour) (s : Nat) (fb : Framebuffer),
    GlyphBecomes g gw gh x y c fg bg s fb (glyph g gw gh x y c fg bg s fb)

/-- 42_glyph R93 with R90: DRAWCHAR completes and renders FONT1's 5×7 cell in the scale of its operand. -/
def Obligations.DrawcharRendersFont1 : Prop :=
  ∀ (x y : Half) (c : Byte) (fg bg : Colour) (size : Byte) (s : State), size ≠ 0 →
    ∃ t, exec (.drawchar x y c fg bg size) s = .next t ∧ DrewOnly 0 s t ∧
      GlyphBecomes (fun ch i j => (((s.cfg.font1[ch.toNat]'ch.isLt).toList.getD i 0).getLsbD j)) 5 7
        x.toInt y.toInt c fg bg size.toNat s.fb t.fb

/-- 42_glyph R94 with R91: DRAWCHARFONT2 completes and renders FONT2's F2W×F2H cell in the scale of its operand. -/
def Obligations.Drawcharfont2RendersFont2 : Prop :=
  ∀ (x y : Half) (c : Byte) (fg bg : Colour) (size : Byte) (s : State), size ≠ 0 →
    ∃ t, exec (.drawcharfont2 x y c fg bg size) s = .next t ∧ DrewOnly 0 s t ∧
      GlyphBecomes (fun ch i j => (((s.cfg.font2[ch.toNat]'ch.isLt).getD i []).getD j false))
        (s.cfg.f2wLess1 + 1) (s.cfg.f2hLess1 + 1) x.toInt y.toInt c fg bg size.toNat s.fb t.fb

/-- 30_encoding R58, 42_glyph R93, R94, R97: a scale of 0 that reaches exec is refused with code 4 and has no other
effect (that exec is given one is the model's own case: the decoder lets none through, log 14). -/
def Obligations.ZeroScaleIsRefused : Prop :=
  ∀ (i : Instr) (s : State), i.wellFormed = false →
    ∃ r : RspWord, r.extractLsb' 0 16 = 0 ∧ r.extractLsb' 16 4 = (4 : BitVec 4) ∧
      exec i s = .next { s with
        status := { s.status with illegal := true }
        responses := s.responses ++ [r] }

/-- 42_glyph R96: SETLOCATION completes, sets the cursor to any 16-bit position, and changes nothing else. -/
def Obligations.SetlocationSetsTheCursor : Prop :=
  ∀ (x y : Half) (s : State), exec (.setlocation x y) s =
    .next { s with curX := x, curY := y, responses := s.responses ++ [responseWord 0 0 s] }

/-- 42_glyph R97: SETTEXTSIZE of 1..255 completes, sets textSize, and changes nothing else. -/
def Obligations.SettextsizeSetsTheScale : Prop :=
  ∀ (n : Byte) (s : State), n ≠ 0 → exec (.settextsize n) s =
    .next { s with textSize := n, responses := s.responses ++ [responseWord 0 0 s] }

/-- 42_glyph R98, R99 (a): WRITE of the newline code completes with RET = 1, moves the cursor to the left margin of
the next text row, and draws nothing. -/
def Obligations.WriteNewlineMovesTheCursor : Prop :=
  ∀ s : State, exec (.write s.cfg.newlineCode) s =
    .next { s with
      curX := 0
      curY := BitVec.ofNat 16 ((s.curY.toNat + 7 * s.textSize.toNat) % 2 ^ 16)
      responses := s.responses ++ [responseWord 1 0 s] }

/-- 42_glyph R98: WRITE of any other code completes with RET = 1: it wraps at most once where the glyph would exceed
the width, draws the font1 glyph at the cursor in TEXT_FG and TEXT_BG, and advances the cursor by the cell and gap. -/
def Obligations.WriteDrawsTheGlyphAndAdvances : Prop :=
  ∀ (c : Byte) (s : State), c ≠ s.cfg.newlineCode →
    let ts := s.textSize.toNat
    let wraps := s.wordWrap = true ∧ 128 < s.curX.toNat + 5 * ts
    ∃ (t : State) (x y : Nat), exec (.write c) s = .next t ∧
      (wraps → x = 0 ∧ y = (s.curY.toNat + 7 * ts) % 2 ^ 16) ∧
      (¬ wraps → x = s.curX.toNat ∧ y = s.curY.toNat) ∧
      t = { s with
            fb := t.fb
            curX := BitVec.ofNat 16 (x + 5 * ts + (if s.cfg.gapScaled then ts else 1))
            curY := BitVec.ofNat 16 y
            responses := s.responses ++ [responseWord 1 0 s] } ∧
      GlyphBecomes (fun ch i j => (((s.cfg.font1[ch.toNat]'ch.isLt).toList.getD i 0).getLsbD j)) 5 7
        x y c s.cfg.textFg s.cfg.textBg ts s.fb t.fb

/-- 42_glyph R100, 30_encoding R60: a string is printed by one WRITE per byte, and the sum of the RET values is its
length. -/
def Obligations.PrintCountsItsBytes : Prop :=
  ∀ (cs : List Byte) (s : State), ∃ (t : State) (rs : List RspWord), execAll (Instr.print cs) s = .next t ∧
    t.responses = s.responses ++ rs ∧ rs.length = cs.length ∧
    ((rs.map fun r => (r.extractLsb' 0 16).toNat).sum = cs.length)

/-- 95_test_vectors P9 (42_glyph R98): with word wrap on and a glyph that fits the width, WRITE draws in columns x ..
x + 5·textSize - 1 within 0..127 only, and the cursor is one gap behind them. -/
def Obligations.WordWrapBreaksBeforeTheBoundary : Prop :=
  ∀ (c : Byte) (s t : State), c ≠ s.cfg.newlineCode → s.wordWrap = true → 5 * s.textSize.toNat ≤ 128 →
    exec (.write c) s = .next t →
    ∃ x : Nat, x + 5 * s.textSize.toNat ≤ 128 ∧
      t.curX.toNat = x + 5 * s.textSize.toNat + (if s.cfg.gapScaled then s.textSize.toNat else 1) ∧
      ∀ px py, px < screenW → py < screenH → px < x ∨ x + 5 * s.textSize.toNat ≤ px →
        pixel t.fb px py = pixel s.fb px py

/-! ### Blitter -/

/-- 20_memory R38, 43_blit R112 (d): a BM address is taken mod 2^32; a listed byte reads as listed. -/
def Obligations.BitmapAddressesWrapAt32Bits : Prop :=
  ∀ (m : Memory) (a : Nat), bmRead m a = bmRead m (a % 2 ^ 32) ∧ bmRead m (a + 2 ^ 32) = bmRead m a ∧
    ∀ b, Memory.wf m → (a % 2 ^ 32, b) ∈ m → bmRead m a = b

/-- 43_blit R110, R111, R112: DRAWBITMAP completes; each pixel of its rectangle is painted once, in `color` where the
source bit is set and in `bg` where it is clear, whatever the colours; nothing else changes. -/
def Obligations.DrawbitmapCopiesItsBits : Prop :=
  ∀ (x y : Half) (base : BitVec 32) (w h : Half) (fg bg : Colour) (s : State),
    ∃ t, exec (.drawbitmap x y base w h fg bg) s = .next t ∧ DrewOnly 0 s t ∧
      ∀ px py, px < screenW → py < screenH →
        (¬ inRect x.toInt y.toInt w.toInt h.toInt px py → pixel t.fb px py = pixel s.fb px py) ∧
        (inRect x.toInt y.toInt w.toInt h.toInt px py →
          let i := (px - x.toInt).toNat
          let j := (py - y.toInt).toNat
          let rb := (w.toInt.toNat + 7) / 8
          pixel t.fb px py = applyColour
            (if (bmRead s.bm ((base.toNat + j * rb + i / 8) % 2 ^ 32)).getLsbD (7 - i % 8) then fg else bg)
            (pixel s.fb px py))

/-! ### Display controller -/

/-- 44_display R118, R119: where the transport answers its 65 transactions, INIT completes; it sends exactly the
fourteen command transfers in their order and sets DSTATE to On. -/
def Obligations.InitSendsItsFourteenTransfersInOrder : Prop :=
  ∀ s : State, s.Answers 65 → ∃ t, exec .init s = .next t ∧ SentOnly s t ∧ t.dstate = .on ∧
    t.bus = s.bus ++ busEvents s.cfg.devAddr ([
      [s.cfg.opcDisplayOff], [s.cfg.opcClockDiv, s.cfg.argClockDiv], [s.cfg.opcMultiplex, s.cfg.argMultiplex],
      [s.cfg.opcDisplayOffset, s.cfg.argDisplayOffset], [s.cfg.opcStartLine],
      [s.cfg.opcChargePump, s.cfg.argChargePump], [s.cfg.opcSegRemap], [s.cfg.opcComScan],
      [s.cfg.opcComPins, s.cfg.argComPins], [s.cfg.opcContrast, s.cfg.argContrast],
      [s.cfg.opcPrecharge, s.cfg.argPrecharge], [s.cfg.opcVcomDetect, s.cfg.argVcomDetect],
      [s.cfg.opcMemoryMode, s.cfg.argMemoryMode], [s.cfg.opcDisplayOn]].map fun bytes => ⟨s.cfg.ctrlCmd, bytes⟩)

/-- 44_display R120: where the transport answers its four transactions, ON completes; it sends DISPLAYON in any state,
and DSTATE becomes On unless it is Uninit. -/
def Obligations.OnSendsDisplayOn : Prop :=
  ∀ s : State, s.Answers 4 → ∃ t, exec .on s = .next t ∧ SentOnly s t ∧
    t.dstate = (if s.dstate = .uninit then .uninit else .on) ∧
    t.bus = s.bus ++ [.busBegin s.cfg.devAddr, .busWrite s.cfg.ctrlCmd, .busWrite s.cfg.opcDisplayOn, .busEnd]

/-- 44_display R121: the same for OFF and DISPLAYOFF. -/
def Obligations.OffSendsDisplayOff : Prop :=
  ∀ s : State, s.Answers 4 → ∃ t, exec .off s = .next t ∧ SentOnly s t ∧
    t.dstate = (if s.dstate = .uninit then .uninit else .off) ∧
    t.bus = s.bus ++ [.busBegin s.cfg.devAddr, .busWrite s.cfg.ctrlCmd, .busWrite s.cfg.opcDisplayOff, .busEnd]

/-- 44_display R122, R123, R124: where the transport answers its transactions, UPDATE completes; it sends the column
window, the page window and ⌈1024 / CHUNK⌉ data transfers, all but the last of CHUNK bytes, whose payloads together
are FB[0] .. FB[1023]; FB and DSTATE stay as they are. -/
def Obligations.UpdateStreamsTheWholeFramebuffer : Prop :=
  ∀ (s : State) (n : Nat), n = (1024 + s.cfg.chunk - 1) / s.cfg.chunk → s.Answers (12 + 1024 + 3 * n) →
    ∃ (t : State) (chunks : List (List Byte)), exec .update s = .next t ∧ SentOnly s t ∧ t.dstate = s.dstate ∧
      t.bus = s.bus ++ busEvents s.cfg.devAddr
        ([⟨s.cfg.ctrlCmd, [s.cfg.opcColumnAddr, 0, 127]⟩, ⟨s.cfg.ctrlCmd, [s.cfg.opcPageAddr, 0, 7]⟩] ++
          chunks.map fun bytes => ⟨s.cfg.ctrlData, bytes⟩) ∧
      chunks.length = n ∧
      (∀ k bytes, chunks[k]? = some bytes → k + 1 < n → bytes.length = s.cfg.chunk) ∧
      (∀ bytes ∈ chunks, 1 ≤ bytes.length ∧ bytes.length ≤ s.cfg.chunk) ∧
      chunks.flatten = (List.range 1024).map fun a => s.fb.read a

/-! ### The display device (45_display_side_reference, an assumption about the environment; log 12)

That the device receives every transaction issued, whatever the transport's answer, is the model's choice (log 22): the
spec gives what the device holds only where every answer was a success (10_state R23, 44_display R125,
45_display_side_reference R146). -/

/-- 45_display_side_reference R145: UPDATE's two window transfers set the device's window to columns 0..127 of pages
0..7 and its pointers to (0, 0), whatever they were, and leave its RAM alone. -/
def Obligations.WindowTransfersResetTheDevicePointers : Prop :=
  ∀ (p : Params) (d : Device), p.DefaultWire → d.Listening p →
    Device.recvAll (busEvents p.devAddr (windowTransfers p)) d =
      some { d with cs := 0, ce := 127, ps := 0, pe := 7, cp := 0, pp := 0 }

/-- 45_display_side_reference R143: INIT leaves the device in horizontal addressing mode with the display on, its RAM,
window and pointers as they were. -/
def Obligations.InitProgramsTheDevice : Prop :=
  ∀ (p : Params) (d : Device), p.DefaultWire → d.Listening p →
    ∃ e, Device.recvAll (busEvents p.devAddr (initTransfers p)) d = some e ∧ e.Listening p ∧ e.mode = 0 ∧
      e.disp = true ∧ e.gddram = d.gddram ∧ e.cs = d.cs ∧ e.ce = d.ce ∧ e.ps = d.ps ∧ e.pe = d.pe ∧
      e.cp = d.cp ∧ e.pp = d.pp

/-- 45_display_side_reference R145, 44_display R124, R125: a device in horizontal mode that receives UPDATE's stream
holds FB in its RAM, for every CHUNK, with its pointers back at (0, 0). -/
def Obligations.UpdateMirrorsTheFramebuffer : Prop :=
  ∀ (p : Params) (fb : Framebuffer) (d : Device), p.DefaultWire → d.Listening p → d.mode = 0 →
    ∃ e, Device.recvAll (busEvents p.devAddr (updateTransfers p fb)) d = some e ∧ e.Mirrors fb ∧ e.Listening p ∧
      e.mode = 0 ∧ e.disp = d.disp ∧ e.cp = 0 ∧ e.pp = 0

/-- 45_display_side_reference R147: after an INIT, any commands, and an UPDATE that completed, a device that received
the stream holds FB in its RAM and its display bit is on iff no OFF followed the last INIT or ON. That it holds after
failed answers as well, with no premise that all were successes, is the model's choice (log 22). -/
def Obligations.DisplayMirrorsAfterInitAndUpdate : Prop :=
  ∀ (s0 s1 s2 s3 : State) (is : List Instr) (d : Device),
    s0.cfg.DefaultWire → d.Listening s0.cfg →
    exec .init s0 = .next s1 → execAll is s1 = .next s2 → exec .update s2 = .next s3 →
    ∃ e sent, s3.bus = s0.bus ++ sent ∧ Device.recvAll sent d = some e ∧ e.Mirrors s3.fb ∧ s3.fb = s2.fb ∧
      (∀ x y, x < screenW → y < screenH → e.pixel x y = pixel s3.fb x y) ∧
      (e.disp = true ↔ s3.dstate = .on)

/-- 45_display_side_reference R143, R145, R147 (the device is an assumption, log 12): every step but a reset that
answers a next state keeps the device following the engine; UPDATE leaves FB in its RAM, and every other step leaves its
RAM as it was. That it holds after failed answers as well is the model's choice (log 22). -/
def Obligations.EveryStepKeepsTheDeviceFollowing : Prop :=
  ∀ (s t : State) (d : Device), d.Follows s → s.inputs.head? ≠ some .reset → step s = .next t →
    ∃ e sent, t.bus = s.bus ++ sent ∧ Device.recvAll sent d = some e ∧ e.Follows t ∧
      (∀ w rest, s.inputs = .command w :: rest → decode w = .ok .update → e.Mirrors t.fb) ∧
      ((∀ w rest, s.inputs = .command w :: rest → decode w ≠ .ok .update) → e.gddram = d.gddram)
end

