-- ==== Sys2Proof/Laws/State.lean ====
section
/-! SUPPORT. One lemma per field of State per named update: what the update leaves in the field. -/

namespace Sys2Proof.Machine

/-! ### State.setIllegal -/

@[simp] theorem State.setIllegal_fb (s : State) : (s.setIllegal).fb = s.fb := rfl
@[simp] theorem State.setIllegal_curX (s : State) : (s.setIllegal).curX = s.curX := rfl
@[simp] theorem State.setIllegal_curY (s : State) : (s.setIllegal).curY = s.curY := rfl
@[simp] theorem State.setIllegal_textSize (s : State) : (s.setIllegal).textSize = s.textSize := rfl
@[simp] theorem State.setIllegal_wordWrap (s : State) : (s.setIllegal).wordWrap = s.wordWrap := rfl
@[simp] theorem State.setIllegal_dstate (s : State) : (s.setIllegal).dstate = s.dstate := rfl
@[simp] theorem State.setIllegal_status (s : State) : (s.setIllegal).status = { s.status with illegal := true } := rfl
@[simp] theorem State.setIllegal_cfg (s : State) : (s.setIllegal).cfg = s.cfg := rfl
@[simp] theorem State.setIllegal_bm (s : State) : (s.setIllegal).bm = s.bm := rfl
@[simp] theorem State.setIllegal_bus (s : State) : (s.setIllegal).bus = s.bus := rfl
@[simp] theorem State.setIllegal_responses (s : State) : (s.setIllegal).responses = s.responses := rfl
@[simp] theorem State.setIllegal_inputs (s : State) : (s.setIllegal).inputs = s.inputs := rfl
@[simp] theorem State.setIllegal_transport (s : State) : (s.setIllegal).transport = s.transport := rfl
@[simp] theorem State.setIllegal_drawn (s : State) : (s.setIllegal).drawn = s.drawn := rfl
@[simp] theorem State.setIllegal_resets (s : State) : (s.setIllegal).resets = s.resets := rfl

/-! ### State.noteBusFail -/

@[simp] theorem State.noteBusFail_fb (failed : Bool) (s : State) : (s.noteBusFail failed).fb = s.fb := rfl
@[simp] theorem State.noteBusFail_curX (failed : Bool) (s : State) : (s.noteBusFail failed).curX = s.curX := rfl
@[simp] theorem State.noteBusFail_curY (failed : Bool) (s : State) : (s.noteBusFail failed).curY = s.curY := rfl
@[simp] theorem State.noteBusFail_textSize (failed : Bool) (s : State) :
    (s.noteBusFail failed).textSize = s.textSize := rfl
@[simp] theorem State.noteBusFail_wordWrap (failed : Bool) (s : State) :
    (s.noteBusFail failed).wordWrap = s.wordWrap := rfl
@[simp] theorem State.noteBusFail_dstate (failed : Bool) (s : State) : (s.noteBusFail failed).dstate = s.dstate := rfl
@[simp] theorem State.noteBusFail_status (failed : Bool) (s : State) :
    (s.noteBusFail failed).status = { s.status with busFail := s.status.busFail || failed } := rfl
@[simp] theorem State.noteBusFail_cfg (failed : Bool) (s : State) : (s.noteBusFail failed).cfg = s.cfg := rfl
@[simp] theorem State.noteBusFail_bm (failed : Bool) (s : State) : (s.noteBusFail failed).bm = s.bm := rfl
@[simp] theorem State.noteBusFail_bus (failed : Bool) (s : State) : (s.noteBusFail failed).bus = s.bus := rfl
@[simp] theorem State.noteBusFail_responses (failed : Bool) (s : State) :
    (s.noteBusFail failed).responses = s.responses := rfl
@[simp] theorem State.noteBusFail_inputs (failed : Bool) (s : State) : (s.noteBusFail failed).inputs = s.inputs := rfl
@[simp] theorem State.noteBusFail_transport (failed : Bool) (s : State) :
    (s.noteBusFail failed).transport = s.transport := rfl
@[simp] theorem State.noteBusFail_drawn (failed : Bool) (s : State) : (s.noteBusFail failed).drawn = s.drawn := rfl
@[simp] theorem State.noteBusFail_resets (failed : Bool) (s : State) : (s.noteBusFail failed).resets = s.resets := rfl

/-! ### respond -/

@[simp] theorem respond_fb (ret : BitVec 16) (err : BitVec 4) (s : State) : (respond ret err s).fb = s.fb := rfl
@[simp] theorem respond_curX (ret : BitVec 16) (err : BitVec 4) (s : State) : (respond ret err s).curX = s.curX := rfl
@[simp] theorem respond_curY (ret : BitVec 16) (err : BitVec 4) (s : State) : (respond ret err s).curY = s.curY := rfl
@[simp] theorem respond_textSize (ret : BitVec 16) (err : BitVec 4) (s : State) :
    (respond ret err s).textSize = s.textSize := rfl
@[simp] theorem respond_wordWrap (ret : BitVec 16) (err : BitVec 4) (s : State) :
    (respond ret err s).wordWrap = s.wordWrap := rfl
@[simp] theorem respond_dstate (ret : BitVec 16) (err : BitVec 4) (s : State) :
    (respond ret err s).dstate = s.dstate := rfl
@[simp] theorem respond_status (ret : BitVec 16) (err : BitVec 4) (s : State) :
    (respond ret err s).status = s.status := rfl
@[simp] theorem respond_cfg (ret : BitVec 16) (err : BitVec 4) (s : State) : (respond ret err s).cfg = s.cfg := rfl
@[simp] theorem respond_bm (ret : BitVec 16) (err : BitVec 4) (s : State) : (respond ret err s).bm = s.bm := rfl
@[simp] theorem respond_bus (ret : BitVec 16) (err : BitVec 4) (s : State) : (respond ret err s).bus = s.bus := rfl
@[simp] theorem respond_responses (ret : BitVec 16) (err : BitVec 4) (s : State) :
    (respond ret err s).responses = s.responses ++ [responseWord ret err s] := rfl
@[simp] theorem respond_inputs (ret : BitVec 16) (err : BitVec 4) (s : State) :
    (respond ret err s).inputs = s.inputs := rfl
@[simp] theorem respond_transport (ret : BitVec 16) (err : BitVec 4) (s : State) :
    (respond ret err s).transport = s.transport := rfl
@[simp] theorem respond_drawn (ret : BitVec 16) (err : BitVec 4) (s : State) :
    (respond ret err s).drawn = s.drawn := rfl
@[simp] theorem respond_resets (ret : BitVec 16) (err : BitVec 4) (s : State) :
    (respond ret err s).resets = s.resets := rfl

/-! ### complete -/

@[simp] theorem complete_fb (ret : BitVec 16) (s : State) : (complete ret s).fb = s.fb := rfl
@[simp] theorem complete_curX (ret : BitVec 16) (s : State) : (complete ret s).curX = s.curX := rfl
@[simp] theorem complete_curY (ret : BitVec 16) (s : State) : (complete ret s).curY = s.curY := rfl
@[simp] theorem complete_textSize (ret : BitVec 16) (s : State) : (complete ret s).textSize = s.textSize := rfl
@[simp] theorem complete_wordWrap (ret : BitVec 16) (s : State) : (complete ret s).wordWrap = s.wordWrap := rfl
@[simp] theorem complete_dstate (ret : BitVec 16) (s : State) : (complete ret s).dstate = s.dstate := rfl
@[simp] theorem complete_status (ret : BitVec 16) (s : State) : (complete ret s).status = s.status := rfl
@[simp] theorem complete_cfg (ret : BitVec 16) (s : State) : (complete ret s).cfg = s.cfg := rfl
@[simp] theorem complete_bm (ret : BitVec 16) (s : State) : (complete ret s).bm = s.bm := rfl
@[simp] theorem complete_bus (ret : BitVec 16) (s : State) : (complete ret s).bus = s.bus := rfl
@[simp] theorem complete_responses (ret : BitVec 16) (s : State) :
    (complete ret s).responses = s.responses ++ [responseWord ret 0 s] := rfl
@[simp] theorem complete_inputs (ret : BitVec 16) (s : State) : (complete ret s).inputs = s.inputs := rfl
@[simp] theorem complete_transport (ret : BitVec 16) (s : State) : (complete ret s).transport = s.transport := rfl
@[simp] theorem complete_drawn (ret : BitVec 16) (s : State) : (complete ret s).drawn = s.drawn := rfl
@[simp] theorem complete_resets (ret : BitVec 16) (s : State) : (complete ret s).resets = s.resets := rfl

/-! ### raiseIllegal -/

@[simp] theorem raiseIllegal_fb (code : IllegalCode) (s : State) : (raiseIllegal code s).fb = s.fb := rfl
@[simp] theorem raiseIllegal_curX (code : IllegalCode) (s : State) : (raiseIllegal code s).curX = s.curX := rfl
@[simp] theorem raiseIllegal_curY (code : IllegalCode) (s : State) : (raiseIllegal code s).curY = s.curY := rfl
@[simp] theorem raiseIllegal_textSize (code : IllegalCode) (s : State) :
    (raiseIllegal code s).textSize = s.textSize := rfl
@[simp] theorem raiseIllegal_wordWrap (code : IllegalCode) (s : State) :
    (raiseIllegal code s).wordWrap = s.wordWrap := rfl
@[simp] theorem raiseIllegal_dstate (code : IllegalCode) (s : State) : (raiseIllegal code s).dstate = s.dstate := rfl
@[simp] theorem raiseIllegal_status (code : IllegalCode) (s : State) :
    (raiseIllegal code s).status = { s.status with illegal := true } := rfl
@[simp] theorem raiseIllegal_cfg (code : IllegalCode) (s : State) : (raiseIllegal code s).cfg = s.cfg := rfl
@[simp] theorem raiseIllegal_bm (code : IllegalCode) (s : State) : (raiseIllegal code s).bm = s.bm := rfl
@[simp] theorem raiseIllegal_bus (code : IllegalCode) (s : State) : (raiseIllegal code s).bus = s.bus := rfl
@[simp] theorem raiseIllegal_responses (code : IllegalCode) (s : State) :
    (raiseIllegal code s).responses = s.responses ++ [responseWord 0 code.bits s.setIllegal] := rfl
@[simp] theorem raiseIllegal_inputs (code : IllegalCode) (s : State) : (raiseIllegal code s).inputs = s.inputs := rfl
@[simp] theorem raiseIllegal_transport (code : IllegalCode) (s : State) :
    (raiseIllegal code s).transport = s.transport := rfl
@[simp] theorem raiseIllegal_drawn (code : IllegalCode) (s : State) : (raiseIllegal code s).drawn = s.drawn := rfl
@[simp] theorem raiseIllegal_resets (code : IllegalCode) (s : State) : (raiseIllegal code s).resets = s.resets := rfl

/-! ### draw -/

@[simp] theorem draw_fb (f : Framebuffer → Framebuffer) (s : State) : (draw f s).fb = f s.fb := rfl
@[simp] theorem draw_curX (f : Framebuffer → Framebuffer) (s : State) : (draw f s).curX = s.curX := rfl
@[simp] theorem draw_curY (f : Framebuffer → Framebuffer) (s : State) : (draw f s).curY = s.curY := rfl
@[simp] theorem draw_textSize (f : Framebuffer → Framebuffer) (s : State) : (draw f s).textSize = s.textSize := rfl
@[simp] theorem draw_wordWrap (f : Framebuffer → Framebuffer) (s : State) : (draw f s).wordWrap = s.wordWrap := rfl
@[simp] theorem draw_dstate (f : Framebuffer → Framebuffer) (s : State) : (draw f s).dstate = s.dstate := rfl
@[simp] theorem draw_status (f : Framebuffer → Framebuffer) (s : State) : (draw f s).status = s.status := rfl
@[simp] theorem draw_cfg (f : Framebuffer → Framebuffer) (s : State) : (draw f s).cfg = s.cfg := rfl
@[simp] theorem draw_bm (f : Framebuffer → Framebuffer) (s : State) : (draw f s).bm = s.bm := rfl
@[simp] theorem draw_bus (f : Framebuffer → Framebuffer) (s : State) : (draw f s).bus = s.bus := rfl
@[simp] theorem draw_responses (f : Framebuffer → Framebuffer) (s : State) :
    (draw f s).responses = s.responses ++ [responseWord 0 0 s] := rfl
@[simp] theorem draw_inputs (f : Framebuffer → Framebuffer) (s : State) : (draw f s).inputs = s.inputs := rfl
@[simp] theorem draw_transport (f : Framebuffer → Framebuffer) (s : State) : (draw f s).transport = s.transport := rfl
@[simp] theorem draw_drawn (f : Framebuffer → Framebuffer) (s : State) : (draw f s).drawn = s.drawn := rfl
@[simp] theorem draw_resets (f : Framebuffer → Framebuffer) (s : State) : (draw f s).resets = s.resets := rfl

/-! ### State.afterBus -/

@[simp] theorem State.afterBus_fb (evs : List BusEvent) (s : State) : (s.afterBus evs).fb = s.fb := rfl
@[simp] theorem State.afterBus_curX (evs : List BusEvent) (s : State) : (s.afterBus evs).curX = s.curX := rfl
@[simp] theorem State.afterBus_curY (evs : List BusEvent) (s : State) : (s.afterBus evs).curY = s.curY := rfl
@[simp] theorem State.afterBus_textSize (evs : List BusEvent) (s : State) :
    (s.afterBus evs).textSize = s.textSize := rfl
@[simp] theorem State.afterBus_wordWrap (evs : List BusEvent) (s : State) :
    (s.afterBus evs).wordWrap = s.wordWrap := rfl
@[simp] theorem State.afterBus_dstate (evs : List BusEvent) (s : State) : (s.afterBus evs).dstate = s.dstate := rfl
@[simp] theorem State.afterBus_status (evs : List BusEvent) (s : State) :
    (s.afterBus evs).status = { s.status with busFail := s.status.busFail || anyFailed evs s.transport s.drawn } := rfl
@[simp] theorem State.afterBus_cfg (evs : List BusEvent) (s : State) : (s.afterBus evs).cfg = s.cfg := rfl
@[simp] theorem State.afterBus_bm (evs : List BusEvent) (s : State) : (s.afterBus evs).bm = s.bm := rfl
@[simp] theorem State.afterBus_bus (evs : List BusEvent) (s : State) : (s.afterBus evs).bus = s.bus ++ evs := rfl
@[simp] theorem State.afterBus_responses (evs : List BusEvent) (s : State) :
    (s.afterBus evs).responses = s.responses := rfl
@[simp] theorem State.afterBus_inputs (evs : List BusEvent) (s : State) : (s.afterBus evs).inputs = s.inputs := rfl
@[simp] theorem State.afterBus_transport (evs : List BusEvent) (s : State) :
    (s.afterBus evs).transport = s.transport.drop evs.length := rfl
@[simp] theorem State.afterBus_drawn (evs : List BusEvent) (s : State) :
    (s.afterBus evs).drawn = s.drawn + (evs.length - s.transport.length) := rfl
@[simp] theorem State.afterBus_resets (evs : List BusEvent) (s : State) : (s.afterBus evs).resets = s.resets := rfl

/-! ### State.switchDisplay -/

@[simp] theorem State.switchDisplay_fb (d : DState) (s : State) : (s.switchDisplay d).fb = s.fb := rfl
@[simp] theorem State.switchDisplay_curX (d : DState) (s : State) : (s.switchDisplay d).curX = s.curX := rfl
@[simp] theorem State.switchDisplay_curY (d : DState) (s : State) : (s.switchDisplay d).curY = s.curY := rfl
@[simp] theorem State.switchDisplay_textSize (d : DState) (s : State) :
    (s.switchDisplay d).textSize = s.textSize := rfl
@[simp] theorem State.switchDisplay_wordWrap (d : DState) (s : State) :
    (s.switchDisplay d).wordWrap = s.wordWrap := rfl
@[simp] theorem State.switchDisplay_dstate (d : DState) (s : State) :
    (s.switchDisplay d).dstate = if s.dstate = .uninit then .uninit else d := rfl
@[simp] theorem State.switchDisplay_status (d : DState) (s : State) : (s.switchDisplay d).status = s.status := rfl
@[simp] theorem State.switchDisplay_cfg (d : DState) (s : State) : (s.switchDisplay d).cfg = s.cfg := rfl
@[simp] theorem State.switchDisplay_bm (d : DState) (s : State) : (s.switchDisplay d).bm = s.bm := rfl
@[simp] theorem State.switchDisplay_bus (d : DState) (s : State) : (s.switchDisplay d).bus = s.bus := rfl
@[simp] theorem State.switchDisplay_responses (d : DState) (s : State) :
    (s.switchDisplay d).responses = s.responses := rfl
@[simp] theorem State.switchDisplay_inputs (d : DState) (s : State) : (s.switchDisplay d).inputs = s.inputs := rfl
@[simp] theorem State.switchDisplay_transport (d : DState) (s : State) :
    (s.switchDisplay d).transport = s.transport := rfl
@[simp] theorem State.switchDisplay_drawn (d : DState) (s : State) : (s.switchDisplay d).drawn = s.drawn := rfl
@[simp] theorem State.switchDisplay_resets (d : DState) (s : State) : (s.switchDisplay d).resets = s.resets := rfl

/-! ### writeNewline -/

@[simp] theorem writeNewline_fb (s : State) : (writeNewline s).fb = s.fb := rfl
@[simp] theorem writeNewline_curX (s : State) : (writeNewline s).curX = 0 := rfl
@[simp] theorem writeNewline_curY (s : State) : (writeNewline s).curY = nextTextRow s := rfl
@[simp] theorem writeNewline_textSize (s : State) : (writeNewline s).textSize = s.textSize := rfl
@[simp] theorem writeNewline_wordWrap (s : State) : (writeNewline s).wordWrap = s.wordWrap := rfl
@[simp] theorem writeNewline_dstate (s : State) : (writeNewline s).dstate = s.dstate := rfl
@[simp] theorem writeNewline_status (s : State) : (writeNewline s).status = s.status := rfl
@[simp] theorem writeNewline_cfg (s : State) : (writeNewline s).cfg = s.cfg := rfl
@[simp] theorem writeNewline_bm (s : State) : (writeNewline s).bm = s.bm := rfl
@[simp] theorem writeNewline_bus (s : State) : (writeNewline s).bus = s.bus := rfl
@[simp] theorem writeNewline_responses (s : State) : (writeNewline s).responses = s.responses := rfl
@[simp] theorem writeNewline_inputs (s : State) : (writeNewline s).inputs = s.inputs := rfl
@[simp] theorem writeNewline_transport (s : State) : (writeNewline s).transport = s.transport := rfl
@[simp] theorem writeNewline_drawn (s : State) : (writeNewline s).drawn = s.drawn := rfl
@[simp] theorem writeNewline_resets (s : State) : (writeNewline s).resets = s.resets := rfl

/-! ### writeGlyph -/

@[simp] theorem writeGlyph_fb (c : Byte) (s : State) :
    (writeGlyph c s).fb = glyph (g1 s.cfg) font1W font1H (zext16 s.curX) (zext16 s.curY) c s.cfg.textFg s.cfg.textBg (zext8 s.textSize) s.fb := rfl
@[simp] theorem writeGlyph_curX (c : Byte) (s : State) :
    (writeGlyph c s).curX = cursorValue (zext16 s.curX + font1W * zext8 s.textSize + glyphGap s.cfg (zext8 s.textSize)) := rfl
@[simp] theorem writeGlyph_curY (c : Byte) (s : State) : (writeGlyph c s).curY = s.curY := rfl
@[simp] theorem writeGlyph_textSize (c : Byte) (s : State) : (writeGlyph c s).textSize = s.textSize := rfl
@[simp] theorem writeGlyph_wordWrap (c : Byte) (s : State) : (writeGlyph c s).wordWrap = s.wordWrap := rfl
@[simp] theorem writeGlyph_dstate (c : Byte) (s : State) : (writeGlyph c s).dstate = s.dstate := rfl
@[simp] theorem writeGlyph_status (c : Byte) (s : State) : (writeGlyph c s).status = s.status := rfl
@[simp] theorem writeGlyph_cfg (c : Byte) (s : State) : (writeGlyph c s).cfg = s.cfg := rfl
@[simp] theorem writeGlyph_bm (c : Byte) (s : State) : (writeGlyph c s).bm = s.bm := rfl
@[simp] theorem writeGlyph_bus (c : Byte) (s : State) : (writeGlyph c s).bus = s.bus := rfl
@[simp] theorem writeGlyph_responses (c : Byte) (s : State) : (writeGlyph c s).responses = s.responses := rfl
@[simp] theorem writeGlyph_inputs (c : Byte) (s : State) : (writeGlyph c s).inputs = s.inputs := rfl
@[simp] theorem writeGlyph_transport (c : Byte) (s : State) : (writeGlyph c s).transport = s.transport := rfl
@[simp] theorem writeGlyph_drawn (c : Byte) (s : State) : (writeGlyph c s).drawn = s.drawn := rfl
@[simp] theorem writeGlyph_resets (c : Byte) (s : State) : (writeGlyph c s).resets = s.resets := rfl

/-! ### environmentWrite -/

@[simp] theorem environmentWrite_fb (a : BitVec 32) (b : Byte) (s : State) : (environmentWrite a b s).fb = s.fb := rfl
@[simp] theorem environmentWrite_curX (a : BitVec 32) (b : Byte) (s : State) :
    (environmentWrite a b s).curX = s.curX := rfl
@[simp] theorem environmentWrite_curY (a : BitVec 32) (b : Byte) (s : State) :
    (environmentWrite a b s).curY = s.curY := rfl
@[simp] theorem environmentWrite_textSize (a : BitVec 32) (b : Byte) (s : State) :
    (environmentWrite a b s).textSize = s.textSize := rfl
@[simp] theorem environmentWrite_wordWrap (a : BitVec 32) (b : Byte) (s : State) :
    (environmentWrite a b s).wordWrap = s.wordWrap := rfl
@[simp] theorem environmentWrite_dstate (a : BitVec 32) (b : Byte) (s : State) :
    (environmentWrite a b s).dstate = s.dstate := rfl
@[simp] theorem environmentWrite_status (a : BitVec 32) (b : Byte) (s : State) :
    (environmentWrite a b s).status = s.status := rfl
@[simp] theorem environmentWrite_cfg (a : BitVec 32) (b : Byte) (s : State) :
    (environmentWrite a b s).cfg = s.cfg := rfl
@[simp] theorem environmentWrite_bm (a : BitVec 32) (b : Byte) (s : State) :
    (environmentWrite a b s).bm = Memory.write s.bm (zext32 a) b := rfl
@[simp] theorem environmentWrite_bus (a : BitVec 32) (b : Byte) (s : State) :
    (environmentWrite a b s).bus = s.bus := rfl
@[simp] theorem environmentWrite_responses (a : BitVec 32) (b : Byte) (s : State) :
    (environmentWrite a b s).responses = s.responses := rfl
@[simp] theorem environmentWrite_inputs (a : BitVec 32) (b : Byte) (s : State) :
    (environmentWrite a b s).inputs = s.inputs := rfl
@[simp] theorem environmentWrite_transport (a : BitVec 32) (b : Byte) (s : State) :
    (environmentWrite a b s).transport = s.transport := rfl
@[simp] theorem environmentWrite_drawn (a : BitVec 32) (b : Byte) (s : State) :
    (environmentWrite a b s).drawn = s.drawn := rfl
@[simp] theorem environmentWrite_resets (a : BitVec 32) (b : Byte) (s : State) :
    (environmentWrite a b s).resets = s.resets := rfl

/-! ### State.resetNow -/

@[simp] theorem State.resetNow_fb (s : State) :
    (s.resetNow).fb = Framebuffer.ofBytes (Config.freeFbByte s.resets) := rfl
@[simp] theorem State.resetNow_curX (s : State) : (s.resetNow).curX = 0 := by simp only [State.resetNow]
@[simp] theorem State.resetNow_curY (s : State) : (s.resetNow).curY = 0 := by simp only [State.resetNow]
@[simp] theorem State.resetNow_textSize (s : State) : (s.resetNow).textSize = 1 := by simp only [State.resetNow]
@[simp] theorem State.resetNow_wordWrap (s : State) : (s.resetNow).wordWrap = s.cfg.wordWrapInit := by simp only [State.resetNow]
@[simp] theorem State.resetNow_dstate (s : State) : (s.resetNow).dstate = .uninit := by simp only [State.resetNow]
@[simp] theorem State.resetNow_status (s : State) : (s.resetNow).status = ⟨false, false⟩ := by simp only [State.resetNow]
@[simp] theorem State.resetNow_cfg (s : State) : (s.resetNow).cfg = s.cfg := by simp only [State.resetNow]
@[simp] theorem State.resetNow_bm (s : State) : (s.resetNow).bm = s.bm := by simp only [State.resetNow]
@[simp] theorem State.resetNow_bus (s : State) : (s.resetNow).bus = [] := by simp only [State.resetNow]
@[simp] theorem State.resetNow_responses (s : State) : (s.resetNow).responses = [] := by simp only [State.resetNow]
@[simp] theorem State.resetNow_inputs (s : State) : (s.resetNow).inputs = s.inputs := by simp only [State.resetNow]
@[simp] theorem State.resetNow_transport (s : State) : (s.resetNow).transport = s.transport := by simp only [State.resetNow]
@[simp] theorem State.resetNow_drawn (s : State) : (s.resetNow).drawn = s.drawn := by simp only [State.resetNow]
@[simp] theorem State.resetNow_resets (s : State) : (s.resetNow).resets = s.resets + 1 := by simp only [State.resetNow]

/-! ### State.withFetchWord -/

@[simp] theorem State.withFetchWord_fb (nbits w : Nat) (s : State) : (s.withFetchWord nbits w).fb = s.fb := rfl
@[simp] theorem State.withFetchWord_curX (nbits w : Nat) (s : State) : (s.withFetchWord nbits w).curX = s.curX := rfl
@[simp] theorem State.withFetchWord_curY (nbits w : Nat) (s : State) : (s.withFetchWord nbits w).curY = s.curY := rfl
@[simp] theorem State.withFetchWord_textSize (nbits w : Nat) (s : State) :
    (s.withFetchWord nbits w).textSize = s.textSize := rfl
@[simp] theorem State.withFetchWord_wordWrap (nbits w : Nat) (s : State) :
    (s.withFetchWord nbits w).wordWrap = s.wordWrap := rfl
@[simp] theorem State.withFetchWord_dstate (nbits w : Nat) (s : State) :
    (s.withFetchWord nbits w).dstate = s.dstate := rfl
@[simp] theorem State.withFetchWord_status (nbits w : Nat) (s : State) :
    (s.withFetchWord nbits w).status = s.status := rfl
@[simp] theorem State.withFetchWord_cfg (nbits w : Nat) (s : State) : (s.withFetchWord nbits w).cfg = s.cfg := rfl
@[simp] theorem State.withFetchWord_bm (nbits w : Nat) (s : State) : (s.withFetchWord nbits w).bm = s.bm := rfl
@[simp] theorem State.withFetchWord_bus (nbits w : Nat) (s : State) : (s.withFetchWord nbits w).bus = s.bus := rfl
@[simp] theorem State.withFetchWord_responses (nbits w : Nat) (s : State) :
    (s.withFetchWord nbits w).responses = s.responses := rfl
@[simp] theorem State.withFetchWord_inputs (nbits w : Nat) (s : State) :
    (s.withFetchWord nbits w).inputs = .command (BitVec.ofNat 128 (w % 2 ^ nbits)) :: s.inputs := rfl
@[simp] theorem State.withFetchWord_transport (nbits w : Nat) (s : State) :
    (s.withFetchWord nbits w).transport = s.transport := rfl
@[simp] theorem State.withFetchWord_drawn (nbits w : Nat) (s : State) :
    (s.withFetchWord nbits w).drawn = s.drawn := rfl
@[simp] theorem State.withFetchWord_resets (nbits w : Nat) (s : State) :
    (s.withFetchWord nbits w).resets = s.resets := rfl

/-! ### The response word reads DSTATE and STATUS only -/

theorem responseWord_congr (ret : BitVec 16) (err : BitVec 4) {s t : State} (hd : s.dstate = t.dstate)
    (hs : s.status = t.status) : responseWord ret err s = responseWord ret err t := by
  simp only [responseWord, hd, hs]

end Sys2Proof.Machine
end

