-- ==== Sys2Proof/Laws/Bus.lean ====
section
/-! SUPPORT. Laws of transfers and of busCommand: when a transaction stalls, when one fails, and everything a bus
command can answer. -/

namespace Sys2Proof.Machine

theorem events_length (addr : BitVec 7) (t : Transfer) : (t.events addr).length = t.payload.length + 3 := by
  simp [Transfer.events]

@[simp] theorem busEvents_nil (addr : BitVec 7) : busEvents addr [] = [] := rfl

@[simp] theorem busEvents_cons (addr : BitVec 7) (t : Transfer) (ts : List Transfer) :
    busEvents addr (t :: ts) = t.events addr ++ busEvents addr ts := by
  simp [busEvents]

@[simp] theorem busEvents_append (addr : BitVec 7) (ts us : List Transfer) :
    busEvents addr (ts ++ us) = busEvents addr ts ++ busEvents addr us := by
  simp [busEvents]

/-! ### Stalls -/

@[simp] theorem stallAt_zero (as : List (Option BusAnswer)) : stallAt as 0 = none := by
  cases as <;> rfl

/-- No transaction stalls iff none of the script's first n answers is one that never comes. -/
theorem stallAt_eq_none {as : List (Option BusAnswer)} {n : Nat} :
    stallAt as n = none ↔ ∀ k, k < n → as[k]? ≠ some none := by
  induction as generalizing n with
  | nil => simp [stallAt]
  | cons a as ih =>
    cases n with
    | zero => simp
    | succ n =>
      cases a with
      | none =>
        refine iff_of_false (by simp [stallAt]) fun h => h 0 (Nat.succ_pos n) rfl
      | some a =>
        simp only [stallAt, Option.map_eq_none_iff, ih]
        constructor
        · intro h k hk
          cases k with
          | zero => simp
          | succ k => simpa using h k (by omega)
        · intro h k hk
          simpa using h (k + 1) (by omega)

/-- The stalled transaction is the first whose answer never comes. -/
theorem stallAt_eq_some {as : List (Option BusAnswer)} {n k : Nat} :
    stallAt as n = some k ↔ k < n ∧ as[k]? = some none ∧ ∀ j, j < k → as[j]? ≠ some none := by
  induction as generalizing n k with
  | nil => simp [stallAt]
  | cons a as ih =>
    cases n with
    | zero => simp
    | succ n =>
      cases a with
      | none =>
        cases k with
        | zero => simp [stallAt]
        | succ k =>
          refine iff_of_false (by simp [stallAt]) fun h => h.2.2 0 (Nat.succ_pos k) rfl
      | some a =>
        simp only [stallAt, Option.map_eq_some_iff, ih]
        constructor
        · rintro ⟨k, ⟨h1, h2, h3⟩, rfl⟩
          refine ⟨by omega, by simpa using h2, fun j hj => ?_⟩
          cases j with
          | zero => simp
          | succ j => simpa using h3 j (by omega)
        · rintro ⟨h1, h2, h3⟩
          cases k with
          | zero => simp at h2
          | succ k =>
            exact ⟨k, ⟨by omega, by simpa using h2, fun j hj => by simpa using h3 (j + 1) (by omega)⟩, rfl⟩

/-! ### Failures -/

/-- A failure is noted iff some transaction's answer is one. -/
theorem anyFailed_iff (evs : List BusEvent) (as : List (Option BusAnswer)) (d : Nat) (s : State)
    (hs : s.transport = as) (hd : s.drawn = d) :
    anyFailed evs as d = true ↔ ∃ (k : Nat) (e : BusEvent), evs[k]? = some e ∧ e.failedBy (s.answerAt k) = true := by
  induction evs generalizing as d s with
  | nil => simp [anyFailed]
  | cons e es ih =>
    have split : (∃ (k : Nat) (f : BusEvent), (e :: es)[k]? = some f ∧ f.failedBy (s.answerAt k) = true) ↔
        e.failedBy (s.answerAt 0) = true ∨ ∃ (k : Nat) (f : BusEvent), es[k]? = some f ∧ f.failedBy (s.answerAt (k + 1)) = true := by
      constructor
      · rintro ⟨k, f, h1, h2⟩
        cases k with
        | zero => cases h1; exact .inl h2
        | succ k => exact .inr ⟨k, f, by simpa using h1, h2⟩
      · rintro (h | ⟨k, f, h1, h2⟩)
        · exact ⟨0, e, rfl, h⟩
        · exact ⟨k + 1, f, by simpa using h1, h2⟩
    rw [split]
    cases as with
    | nil =>
      have step : ∀ k, s.answerAt (k + 1) = ({ s with transport := [], drawn := d + 1 } : State).answerAt k := by
        intro k; simp [State.answerAt, hs, hd, Nat.add_comm k 1, Nat.add_assoc]
      simp only [anyFailed, Bool.or_eq_true, ih [] (d + 1) { s with transport := [], drawn := d + 1 } rfl rfl, step]
      simp [State.answerAt, hs, hd]
    | cons a as =>
      have step : ∀ k, s.answerAt (k + 1) = ({ s with transport := as, drawn := d } : State).answerAt k := by
        intro k; simp [State.answerAt, hs, hd]
      cases a with
      | none =>
        have h0 : e.failedBy (s.answerAt 0) = false := by
          cases e <;> simp [State.answerAt, hs, BusEvent.failedBy]
        simp only [anyFailed, ih as d { s with transport := as, drawn := d } rfl rfl, step, h0]
        simp
      | some a =>
        simp only [anyFailed, Bool.or_eq_true, ih as d { s with transport := as, drawn := d } rfl rfl, step]
        simp [State.answerAt, hs]

/-! ### busCommand -/

/-- Everything a bus command can answer: it completes with its transactions in the stream, or it is stuck at the first
transaction that is never answered. -/
theorem busCommand_cases (ts : List Transfer) (after : State → State) (s : State) :
    (s.Answers (busEvents s.cfg.devAddr ts).length ∧
      busCommand ts after s = .next (complete 0 (after (s.afterBus (busEvents s.cfg.devAddr ts))))) ∨
    (∃ k, stallAt s.transport (busEvents s.cfg.devAddr ts).length = some k ∧
      busCommand ts after s = .fault (.transportStalled ((busEvents s.cfg.devAddr ts).take (k + 1)))) := by
  cases h : stallAt s.transport (busEvents s.cfg.devAddr ts).length with
  | none => exact .inl ⟨h, by simp only [busCommand, h]⟩
  | some k => exact .inr ⟨k, rfl, by simp only [busCommand, h]⟩

theorem busCommand_answered {ts : List Transfer} {after : State → State} {s : State}
    (h : s.Answers (busEvents s.cfg.devAddr ts).length) :
    busCommand ts after s = .next (complete 0 (after (s.afterBus (busEvents s.cfg.devAddr ts)))) := by
  unfold State.Answers at h
  simp only [busCommand, h]

theorem busCommand_next {ts : List Transfer} {after : State → State} {s t : State}
    (h : busCommand ts after s = .next t) :
    s.Answers (busEvents s.cfg.devAddr ts).length ∧
      t = complete 0 (after (s.afterBus (busEvents s.cfg.devAddr ts))) := by
  rcases busCommand_cases ts after s with ⟨ha, he⟩ | ⟨k, -, he⟩
  · rw [he] at h; cases h; exact ⟨ha, rfl⟩
  · rw [he] at h; cases h

end Sys2Proof.Machine
end

