-- ==== Sys2Proof/Laws/Decode.lean ====
section
/-! SUPPORT. Laws of the command word's fields and of the small decoders. -/

namespace Sys2Proof

theorem decide_and_of (p : Prop) [Decidable p] (hp : p) (b : Bool) : (decide p && b) = b := by
  rw [decide_eq_true hp, Bool.true_and]

/-- The fields of a word built from fields are those fields. -/
@[simp] theorem Fields.ofWord_toWord (f : Fields) : Fields.ofWord f.toWord = f := by
  obtain ⟨op, color, bg, rsv0, a0, a1, a2, a3, rsv1, base⟩ := f
  simp only [Fields.ofWord, Fields.toWord, Fields.mk.injEq]
  refine ⟨?_, ?_, ?_, ?_, ?_, ?_, ?_, ?_, ?_, ?_⟩ <;>
    (apply BitVec.eq_of_getLsbD_eq; intro i hi; simp only [BitVec.getLsbD_extractLsb', BitVec.getLsbD_append]
     simp only [hi, decide_true, Bool.true_and]
     repeat (first
       | (rw [if_pos (by omega)])
       | (rw [if_neg (by omega)]))
     congr 1
     try omega)

/-- A word is built from its own fields. -/
@[simp] theorem Fields.toWord_ofWord (w : CmdWord) : (Fields.ofWord w).toWord = w := by
  apply BitVec.eq_of_getLsbD_eq
  intro i hi
  simp only [Fields.ofWord, Fields.toWord, BitVec.getLsbD_extractLsb', BitVec.getLsbD_append]
  split_ifs <;> (refine (decide_and_of _ ?_ _).trans (congrArg w.getLsbD ?_) <;> omega)

@[simp] theorem Opcode.ofByte_byte (o : Opcode) : Opcode.ofByte o.byte = some o := by
  cases o <;> rfl

theorem Opcode.ofByte_eq_some {b : Byte} {o : Opcode} (h : Opcode.ofByte b = some o) : o.byte = b := by
  have := List.find?_some h
  simpa using this

theorem Opcode.mem_all (o : Opcode) : o ∈ Opcode.all := by cases o <;> decide

theorem Opcode.ofByte_eq_none {b : Byte} : Opcode.ofByte b = none ↔ ∀ o : Opcode, o.byte ≠ b := by
  simp only [Opcode.ofByte, List.find?_eq_none, beq_iff_eq]
  exact ⟨fun h o => h o (Opcode.mem_all o), fun h o _ => h o⟩

@[simp] theorem Colour.ofBits_bits (c : Colour) : Colour.ofBits c.bits = some c := by cases c <;> rfl

theorem Colour.bits_of_ofBits {v : BitVec 2} {c : Colour} (h : Colour.ofBits v = some c) : c.bits = v := by
  revert h; revert c v; decide

@[simp] theorem lowByte_byteField (b : Byte) : lowByte (byteField b) = b := by
  apply BitVec.eq_of_getLsbD_eq
  intro i hi
  simp [lowByte, byteField, hi]
  omega

end Sys2Proof
end

