-- ==== Sys2Proof/Laws/Device.lean ====
section
/-! SUPPORT. Laws of the sequencer's data transfers and of the receiving device: the payloads are FB's bytes in order, a
stream is received piece by piece, a command is performed, and a data byte lands at the pointers. -/

namespace Sys2Proof.Machine

theorem Params.chunk_pos (p : Params) : 0 < p.chunk := Nat.succ_pos _

/-- The payloads of the data transfers from address a on are the bytes FB[a] .. FB[1023]. -/
theorem dataTransfers_payloads (p : Params) (fb : Framebuffer) (fuel a : Nat) (h : fbSize ≤ a + fuel) :
    (dataTransfers p fb fuel a).flatMap Transfer.payload = (List.range' a (fbSize - a)).map fb.read := by
  induction fuel generalizing a with
  | zero =>
    have : fbSize - a = 0 := by omega
    simp [dataTransfers, this]
  | succ fuel ih =>
    unfold dataTransfers
    split
    · rename_i ha
      have hc := Params.chunk_pos p
      have hm : 0 < min p.chunk (fbSize - a) := by omega
      rw [List.flatMap_cons, ih (a + min p.chunk (fbSize - a)) (by omega)]
      have hr : List.range' a (fbSize - a) = List.range' a (min p.chunk (fbSize - a)) ++
          List.range' (a + min p.chunk (fbSize - a)) (fbSize - (a + min p.chunk (fbSize - a))) := by
        rw [List.range'_append_1]
        congr 1
        omega
      rw [hr, List.map_append]
      congr 1
      simp only [fbBytes, List.range'_eq_map_range, List.map_map, Function.comp_def]
    · rename_i ha
      have : fbSize - a = 0 := by omega
      simp [this]

/-- Every data transfer carries 1..CHUNK bytes after the data control code. -/
theorem dataTransfers_mem {p : Params} {fb : Framebuffer} {fuel a : Nat} {t : Transfer}
    (h : t ∈ dataTransfers p fb fuel a) :
    t.ctrl = p.ctrlData ∧ 1 ≤ t.payload.length ∧ t.payload.length ≤ p.chunk := by
  induction fuel generalizing a with
  | zero => cases h
  | succ fuel ih =>
    unfold dataTransfers at h
    split at h
    · rename_i ha
      rcases List.mem_cons.mp h with rfl | h
      · have hc := Params.chunk_pos p
        simp only [fbBytes, List.length_map, List.length_range]
        exact ⟨trivial, by omega, by omega⟩
      · exact ih h
    · cases h

/-- A stream is received piece by piece. -/
theorem Device.recvAll_append (es fs : List BusEvent) (d : Device) :
    Device.recvAll (es ++ fs) d = (Device.recvAll es d).bind (Device.recvAll fs) := by
  induction es generalizing d with
  | nil => rfl
  | cons e es ih =>
    simp only [List.cons_append, Device.recvAll]
    cases d.recv e with
    | none => rfl
    | some d => exact ih d

/-- The byte stored lands at the pointers, every other byte of the RAM is as before. -/
theorem Device.ram_store (v : Byte) (d : Device) {p c : Nat} (hp : p < 8) (hc : c < 128) :
    (d.store v).ram p c = if p = d.pp.toNat ∧ c = d.cp.toNat then v else d.ram p c := by
  unfold Device.ram Device.store
  rw [dif_pos ⟨hp, hc⟩, dif_pos ⟨hp, hc⟩]
  simp only [Vector.getElem_set]
  by_cases h1 : d.pp.toNat = p
  · subst h1
    by_cases h2 : d.cp.toNat = c
    · subst h2
      simp
    · simp [h2, Ne.symm h2]
  · simp [h1, Ne.symm h1]

/-- A listening device receives a command with all its arguments in one transfer, and performs it. -/
theorem Device.recv_commandTransfer {d : Device} {op : Byte} {args : List Byte} (hrx : d.rx = .idle)
    (hp : d.pending = []) (hn : (op, args.length) ∈ deviceCommands) :
    Device.recvAll (Transfer.events d.addr ⟨0x00, op :: args⟩) d =
      some (d.perform op (args.getD 0 0) (args.getD 1 0)) := by
  obtain ⟨addr, ram, cp, pp, cs, ce, ps, pe, mode, disp, panel, rx, pending⟩ := d
  cases hrx
  cases hp
  have hz : Device.recv (.busBegin addr) ⟨addr, ram, cp, pp, cs, ce, ps, pe, mode, disp, panel, .idle, []⟩ =
      some ⟨addr, ram, cp, pp, cs, ce, ps, pe, mode, disp, panel, .control, []⟩ := by simp [Device.recv]
  simp only [Transfer.events, Device.recvAll, hz, Option.bind]
  clear hz
  simp only [deviceCommands, List.mem_cons, Prod.mk.injEq, List.not_mem_nil, or_false, List.length_eq_zero_iff,
    List.length_eq_one_iff, List.length_eq_two] at hn
  rcases hn with ⟨rfl, h⟩ | ⟨rfl, h⟩ | ⟨rfl, h⟩ | ⟨rfl, h⟩ | ⟨rfl, h⟩ | ⟨rfl, h⟩ | ⟨rfl, h⟩ | ⟨rfl, h⟩ | ⟨rfl, h⟩ |
    ⟨rfl, h⟩ | ⟨rfl, h⟩ | ⟨rfl, h⟩ | ⟨rfl, h⟩ | ⟨rfl, h⟩ | ⟨rfl, h⟩ | ⟨rfl, h⟩
  all_goals
    first
    | (subst h; rfl)
    | (obtain ⟨a, rfl⟩ := h; rfl)
    | (obtain ⟨a, b, rfl⟩ := h; rfl)

end Sys2Proof.Machine
end

