-- ==== Sys2Proof/Laws/Exec.lean ====
section
/-! SUPPORT. What exec can do, said once: a command is one of the four that use the bus, or it completes and stays off
it. -/

namespace Sys2Proof.Machine

/-- What every command that stays off the bus leaves as it was; it adds one response. -/
structure Quiet (s t : State) : Prop where
  wordWrap : t.wordWrap = s.wordWrap
  dstate : t.dstate = s.dstate
  busFail : t.status.busFail = s.status.busFail
  cfg : t.cfg = s.cfg
  bm : t.bm = s.bm
  bus : t.bus = s.bus
  inputs : t.inputs = s.inputs
  transport : t.transport = s.transport
  drawn : t.drawn = s.drawn
  resets : t.resets = s.resets
  illegal : s.status.illegal = true → t.status.illegal = true
  responses : ∃ ret err, t.responses = s.responses ++ [responseWord ret err t]

theorem responseWord_respond (ret ret' : BitVec 16) (err err' : BitVec 4) (s : State) :
    responseWord ret err (respond ret' err' s) = responseWord ret err s := rfl

theorem quiet_draw (f : Framebuffer → Framebuffer) (s : State) : Quiet s (draw f s) :=
  ⟨rfl, rfl, rfl, rfl, rfl, rfl, rfl, rfl, rfl, rfl, id, 0, 0, rfl⟩

theorem quiet_raiseIllegal (code : IllegalCode) (s : State) : Quiet s (raiseIllegal code s) :=
  ⟨rfl, rfl, rfl, rfl, rfl, rfl, rfl, rfl, rfl, rfl, fun _ => rfl, 0, code.bits, rfl⟩

/-- A change of the cursor, textSize and FB, then the response. -/
theorem quiet_complete_text (ret : BitVec 16) (s : State) (fb : Framebuffer) (x y : Half) (n : Byte) :
    Quiet s (complete ret { s with fb := fb, curX := x, curY := y, textSize := n }) :=
  ⟨rfl, rfl, rfl, rfl, rfl, rfl, rfl, rfl, rfl, rfl, id, ret, 0, rfl⟩

theorem quiet_drawGlyph (g : GlyphPixels) (gw gh : Nat) (x y : Half) (c : Byte) (color bg : Colour) (size : Byte)
    (s : State) : Quiet s (drawGlyph g gw gh x y c color bg size s) := by
  unfold drawGlyph
  split
  · exact quiet_raiseIllegal _ s
  · exact quiet_draw _ s

/-- What WRITE does to the text state before its response: FB and the cursor change, nothing else. -/
theorem write_text (c : Byte) (s : State) :
    ∃ fb x y, (if c = s.cfg.newlineCode then writeNewline s else writeGlyph c (wrapCursor s)) =
      { s with fb := fb, curX := x, curY := y } := by
  split
  · exact ⟨s.fb, 0, nextTextRow s, rfl⟩
  · unfold wrapCursor
    split
    · exact ⟨_, _, _, rfl⟩
    · exact ⟨_, _, _, rfl⟩

/-- Whether a command is one of the four that use the bus (20_memory R30, 44_display R117). -/
def usesBus : Instr → Bool
  | .init => true
  | .update => true
  | .on => true
  | .off => true
  | .clear => false
  | .fillscreen _ => false
  | .setlocation _ _ => false
  | .settextsize _ => false
  | .drawpixel _ _ _ => false
  | .drawline _ _ _ _ _ => false
  | .drawfastvline _ _ _ _ => false
  | .drawfasthline _ _ _ _ => false
  | .fillrect _ _ _ _ _ => false
  | .drawchar _ _ _ _ _ _ => false
  | .drawcharfont2 _ _ _ _ _ _ => false
  | .write _ => false
  | .drawbitmap _ _ _ _ _ _ _ => false

/-- A command that does not use the bus always completes, and is quiet. -/
theorem exec_quiet {i : Instr} (h : usesBus i = false) (s : State) : ∃ t, exec i s = .next t ∧ Quiet s t := by
  cases i with
  | init => cases h
  | update => cases h
  | on => cases h
  | off => cases h
  | clear => exact ⟨_, rfl, quiet_draw _ s⟩
  | fillscreen _ => exact ⟨_, rfl, quiet_draw _ s⟩
  | setlocation x y => exact ⟨_, rfl, quiet_complete_text 0 s s.fb x y s.textSize⟩
  | settextsize n =>
    refine ⟨_, rfl, ?_⟩
    split
    · exact quiet_raiseIllegal _ s
    · exact quiet_complete_text 0 s s.fb s.curX s.curY n
  | drawpixel _ _ _ => exact ⟨_, rfl, quiet_draw _ s⟩
  | drawline _ _ _ _ _ => exact ⟨_, rfl, quiet_draw _ s⟩
  | drawfastvline _ _ _ _ => exact ⟨_, rfl, quiet_draw _ s⟩
  | drawfasthline _ _ _ _ => exact ⟨_, rfl, quiet_draw _ s⟩
  | fillrect _ _ _ _ _ => exact ⟨_, rfl, quiet_draw _ s⟩
  | drawchar _ _ _ _ _ _ => exact ⟨_, rfl, quiet_drawGlyph _ _ _ _ _ _ _ _ _ s⟩
  | drawcharfont2 _ _ _ _ _ _ => exact ⟨_, rfl, quiet_drawGlyph _ _ _ _ _ _ _ _ _ s⟩
  | write c =>
    obtain ⟨fb, x, y, h⟩ := write_text c s
    exact ⟨_, rfl, by rw [h]; exact quiet_complete_text 1 s fb x y s.textSize⟩
  | drawbitmap _ _ _ _ _ _ _ => exact ⟨_, rfl, quiet_draw _ s⟩

theorem commandEvents_eq (i : Instr) (s : State) :
    commandEvents i s = busEvents s.cfg.devAddr (transfersOf i s) := rfl

/-- DSTATE after a command, by the state before (10_state R18). -/
def dstateAfter (i : Instr) (d : DState) : DState :=
  if i = .init then .on
  else if i = .on then (if d = .uninit then .uninit else .on)
  else if i = .off then (if d = .uninit then .uninit else .off)
  else d

/-- A bus command is busCommand of its transfers, followed by its change of DSTATE. -/
theorem exec_bus {i : Instr} (h : usesBus i = true) (s : State) :
    exec i s = busCommand (transfersOf i s)
      (fun t => { t with dstate := dstateAfter i t.dstate }) s := by
  cases i <;> first | rfl | cases h

/-- Everything a command that completes leaves: the transactions in the stream, BUSFAIL if one failed, one response. -/
theorem exec_bus_next {i : Instr} (h : usesBus i = true) {s t : State} (he : exec i s = .next t) :
    s.Answers (commandEvents i s).length ∧
      t = complete 0 { s.afterBus (commandEvents i s) with dstate := dstateAfter i s.dstate } := by
  rw [exec_bus h] at he
  rw [commandEvents_eq]
  exact busCommand_next he

/-- A quiet command answers with its quiet state. -/
theorem exec_quiet_next {i : Instr} (h : usesBus i = false) {s t : State} (he : exec i s = .next t) :
    Quiet s t := by
  obtain ⟨u, hu, hq⟩ := exec_quiet h s
  rw [hu] at he
  cases he
  exact hq

end Sys2Proof.Machine
end

