-- ==== Sys2Proof/Laws/Framebuffer.lean ====
section
/-! SUPPORT. Laws of FB: read after write, two framebuffers with the same bytes (or the same pixels) are equal, and what
PutPixel does to every pixel. -/

namespace Sys2Proof.Machine

namespace Framebuffer

theorem read_of_lt (fb : Framebuffer) {a : Nat} (h : a < fbSize) : fb.read a = fb[a] := dif_pos h

theorem read_write_same (fb : Framebuffer) {a : Nat} (v : Byte) (h : a < fbSize) : (fb.write a v).read a = v := by
  simp only [read, write, dif_pos h, Vector.getElem_set_self]

theorem read_write_other (fb : Framebuffer) {a b : Nat} (v : Byte) (h : a ≠ b) : (fb.write a v).read b = fb.read b := by
  by_cases ha : a < fbSize <;> by_cases hb : b < fbSize <;> simp [read, write, ha, hb, Vector.getElem_set_ne, h]

/-- Equal framebuffers are equal data: they have the same byte at each of the 1024 addresses. -/
theorem ext_read {fb fc : Framebuffer} (h : ∀ a, a < fbSize → fb.read a = fc.read a) : fb = fc := by
  apply Vector.ext
  intro i hi
  have := h i hi
  rwa [read_of_lt fb hi, read_of_lt fc hi] at this

theorem read_mapBytes (f : Byte → Byte) (fb : Framebuffer) {a : Nat} (h : a < fbSize) :
    (fb.mapBytes f).read a = f (fb.read a) := by
  rw [read_of_lt _ h, read_of_lt _ h]
  simp [mapBytes]

theorem read_ofBytes (f : Nat → Byte) {a : Nat} (h : a < fbSize) : (ofBytes f).read a = f a := by
  rw [read_of_lt _ h]
  unfold ofBytes
  simp only [Vector.getElem_mk, List.getElem_toArray, List.getElem_map, List.getElem_range]

end Framebuffer

/-! ### Pixels -/

theorem pixelAddr_lt {x y : Nat} (hx : x < screenW) (hy : y < screenH) : pixelAddr x y < fbSize := by
  unfold pixelAddr screenW screenH fbSize at *
  omega

theorem pixelAddr_inj {x y px py : Nat} (hx : x < screenW) (hpx : px < screenW)
    (h : pixelAddr x y = pixelAddr px py) : x = px ∧ y / 8 = py / 8 := by
  unfold pixelAddr screenW at *
  omega

/-- The framebuffer is determined by its pixels. -/
theorem ext_pixel {fb fc : Framebuffer}
    (h : ∀ px py, px < screenW → py < screenH → pixel fb px py = pixel fc px py) : fb = fc := by
  refine Framebuffer.ext_read fun a ha => BitVec.eq_of_getLsbD_eq fun k hk => ?_
  have e := h (a % 128) (a / 128 * 8 + k) (by unfold screenW; omega) (by unfold screenH fbSize at *; omega)
  have h1 : pixelAddr (a % 128) (a / 128 * 8 + k) = a := by unfold pixelAddr; omega
  have h2 : (a / 128 * 8 + k) % 8 = k := by omega
  simpa only [pixel, h1, h2] using e

theorem getLsbD_paintBit (c : Colour) (bit k : Nat) (v : Byte) (hk : k < 8) :
    (paintBit c bit v).getLsbD k = if k = bit then applyColour c (v.getLsbD k) else v.getLsbD k := by
  by_cases h : k = bit
  · subst h
    cases c <;> simp [paintBit, applyColour, hk]
  · have h1 : (1#8 <<< bit).getLsbD k = false := by
      simp only [BitVec.getLsbD_shiftLeft, BitVec.getLsbD_one, hk, decide_true, Bool.true_and]
      by_cases hb : k < bit
      · simp [hb]
      · simp only [hb, decide_false, Bool.not_false, Bool.true_and]
        have : k - bit ≠ 0 := by omega
        simp [this]
    cases c <;>
      simp only [paintBit, BitVec.getLsbD_or, BitVec.getLsbD_and, BitVec.getLsbD_xor, BitVec.getLsbD_not, h1, h, hk,
        if_false, Bool.or_false, Bool.xor_false, decide_true, Bool.not_false, Bool.and_true]

theorem getLsbD_paintByte (c : Colour) (k : Nat) (v : Byte) (hk : k < 8) :
    (paintByte c v).getLsbD k = applyColour c (v.getLsbD k) := by
  have h255 : BitVec.getLsbD (0xFF : Byte) k = true := by interval_cases k <;> rfl
  cases c
  · exact BitVec.getLsbD_zero
  · exact h255
  · rw [paintByte, applyColour, BitVec.getLsbD_xor, h255, Bool.xor_true]

theorem applyColour_inverse_twice (b : Bool) : applyColour .inverse (applyColour .inverse b) = b := by
  simp [applyColour]

theorem onScreen_iff (x y : Int) : onScreen x y = true ↔ 0 ≤ x ∧ x < 128 ∧ 0 ≤ y ∧ y < 64 := by
  simp [onScreen, and_assoc]

theorem putPixel_offScreen (x y : Int) (c : Colour) (fb : Framebuffer) (h : onScreen x y = false) :
    putPixel x y c fb = fb := by
  simp [putPixel, h]

/-- Everything PutPixel does, by bytes: off the screen nothing, on it one write. -/
theorem putPixel_onScreen (x y : Int) (c : Colour) (fb : Framebuffer) (h : onScreen x y = true) :
    putPixel x y c fb = fb.write (pixelAddr x.toNat y.toNat)
      (paintBit c (y.toNat % 8) (fb.read (pixelAddr x.toNat y.toNat))) := by
  simp [putPixel, h]

/-- Everything PutPixel does, by pixels: its own pixel is painted, every other one is as before. -/
theorem pixel_putPixel (x y : Int) (c : Colour) (fb : Framebuffer) {px py : Nat} (hx : px < screenW)
    (hy : py < screenH) :
    pixel (putPixel x y c fb) px py =
      if x = px ∧ y = py then applyColour c (pixel fb px py) else pixel fb px py := by
  unfold screenW screenH at *
  by_cases hon : onScreen x y = true
  · obtain ⟨h1, h2, h3, h4⟩ := (onScreen_iff x y).mp hon
    obtain ⟨x, rfl⟩ := Int.eq_ofNat_of_zero_le h1
    obtain ⟨y, rfl⟩ := Int.eq_ofNat_of_zero_le h3
    rw [putPixel_onScreen _ _ _ _ hon]
    simp only [Int.toNat_natCast, Nat.cast_inj] at *
    have hx' : x < screenW := by unfold screenW; omega
    have hy' : y < screenH := by unfold screenH; omega
    by_cases ha : pixelAddr x y = pixelAddr px py
    · obtain ⟨rfl, hyy⟩ := pixelAddr_inj hx' hx ha
      simp only [pixel, ha, Framebuffer.read_write_same _ _ (pixelAddr_lt hx hy)]
      rw [getLsbD_paintBit _ _ _ _ (by omega)]
      have : (py % 8 = y % 8) ↔ (y = py) := by omega
      simp [this]
    · have : ¬ (x = px ∧ y = py) := by rintro ⟨rfl, rfl⟩; exact ha rfl
      simp only [pixel, Framebuffer.read_write_other _ _ ha, this, if_false]
  · have hoff : onScreen x y = false := by simpa using hon
    rw [putPixel_offScreen _ _ _ _ hoff]
    have : ¬ (x = px ∧ y = py) := by
      rintro ⟨rfl, rfl⟩
      exact hon ((onScreen_iff _ _).mpr ⟨by omega, by omega, by omega, by omega⟩)
    simp [this]

/-- Everything a byte-wise fill does, by pixels. -/
theorem pixel_mapBytes_paintByte (c : Colour) (fb : Framebuffer) {px py : Nat} (hx : px < screenW) (hy : py < screenH) :
    pixel (fb.mapBytes (paintByte c)) px py = applyColour c (pixel fb px py) := by
  unfold pixel
  rw [Framebuffer.read_mapBytes _ _ (pixelAddr_lt hx hy), getLsbD_paintByte _ _ _ (by omega)]

end Sys2Proof.Machine
end

