-- ==== Sys2Proof/Laws/Loops.lean ====
section
/-! SUPPORT. Laws of the drawing loops: what a loop of pixel operations does to one pixel, each position visited at most
once, packaged as one induction. -/

namespace Sys2Proof.Machine

/-- A framebuffer operation, seen at one pixel of the screen. -/
def ActsOnPixel (f : Framebuffer → Framebuffer) (px py : Nat) (act : Bool → Bool) : Prop :=
  ∀ fb, pixel (f fb) px py = act (pixel fb px py)

/-- A loop none of whose iterations touches the pixel leaves it as it was. -/
theorem forLoop_misses {body : Nat → Framebuffer → Framebuffer} {n px py : Nat}
    (h : ∀ k, k < n → ActsOnPixel (body k) px py id) : ActsOnPixel (forLoop body n) px py id := by
  induction n with
  | zero => intro fb; rfl
  | succ n ih =>
    intro fb
    rw [forLoop, h n (Nat.lt_succ_self n), id, ih (fun k hk => h k (by omega)) fb]

/-- A loop exactly one of whose iterations touches the pixel does to it what that iteration does. -/
theorem forLoop_hits {body : Nat → Framebuffer → Framebuffer} {n px py k : Nat} {act : Bool → Bool} (hk : k < n)
    (hit : ActsOnPixel (body k) px py act) (miss : ∀ j, j < n → j ≠ k → ActsOnPixel (body j) px py id) :
    ActsOnPixel (forLoop body n) px py act := by
  induction n with
  | zero => omega
  | succ n ih =>
    intro fb
    rw [forLoop]
    by_cases hn : k = n
    · subst hn
      rw [hit, forLoop_misses (fun j hj => miss j (by omega) (by omega)) fb, id]
    · rw [miss n (by omega) (by omega), id, ih (by omega) (fun j hj hjk => miss j (by omega) hjk) fb]

theorem putPixel_acts {x y : Int} {px py : Nat} (c : Colour) (hx : px < screenW) (hy : py < screenH)
    (h : x = px ∧ y = py) : ActsOnPixel (putPixel x y c) px py (applyColour c) := by
  intro fb; rw [pixel_putPixel _ _ _ _ hx hy, if_pos h]

theorem putPixel_misses {x y : Int} {px py : Nat} (c : Colour) (hx : px < screenW) (hy : py < screenH)
    (h : ¬ (x = px ∧ y = py)) : ActsOnPixel (putPixel x y c) px py id := by
  intro fb; rw [pixel_putPixel _ _ _ _ hx hy, if_neg h]; rfl

theorem loopCount_spec (n : Int) (k : Nat) : k < loopCount n ↔ (k : Int) < n := by
  unfold loopCount; omega

/-! ### HLine, VLine, Rect -/

/-- The pixel lies on HLine(x, y, w). -/
def onHline (x y w : Int) (px py : Nat) : Prop := x ≤ px ∧ (px : Int) < x + w ∧ y = py

theorem hline_acts {x y w : Int} {px py : Nat} (c : Colour) (hx : px < screenW) (hy : py < screenH)
    (h : onHline x y w px py) : ActsOnPixel (hline x y w c) px py (applyColour c) := by
  obtain ⟨h1, h2, h3⟩ := h
  refine forLoop_hits (k := (px - x).toNat) ((loopCount_spec _ _).mpr (by omega))
    (putPixel_acts c hx hy ⟨by omega, h3⟩) fun j _ hj => putPixel_misses c hx hy ?_
  rintro ⟨h4, -⟩
  omega

theorem hline_misses {x y w : Int} {px py : Nat} (c : Colour) (hx : px < screenW) (hy : py < screenH)
    (h : ¬ onHline x y w px py) : ActsOnPixel (hline x y w c) px py id := by
  refine forLoop_misses fun k hk => putPixel_misses c hx hy ?_
  rintro ⟨h1, h2⟩
  have := (loopCount_spec _ _).mp hk
  exact h ⟨by omega, by omega, h2⟩

/-- The pixel lies on VLine(x, y, h). -/
def onVline (x y h : Int) (px py : Nat) : Prop := x = px ∧ y ≤ py ∧ (py : Int) < y + h

theorem vline_acts {x y h : Int} {px py : Nat} (c : Colour) (hx : px < screenW) (hy : py < screenH)
    (hon : onVline x y h px py) : ActsOnPixel (vline x y h c) px py (applyColour c) := by
  obtain ⟨h1, h2, h3⟩ := hon
  refine forLoop_hits (k := (py - y).toNat) ((loopCount_spec _ _).mpr (by omega))
    (putPixel_acts c hx hy ⟨h1, by omega⟩) fun j _ hj => putPixel_misses c hx hy ?_
  rintro ⟨-, h4⟩
  omega

theorem vline_misses {x y h : Int} {px py : Nat} (c : Colour) (hx : px < screenW) (hy : py < screenH)
    (hon : ¬ onVline x y h px py) : ActsOnPixel (vline x y h c) px py id := by
  refine forLoop_misses fun k hk => putPixel_misses c hx hy ?_
  rintro ⟨h1, h2⟩
  have := (loopCount_spec _ _).mp hk
  exact hon ⟨h1, by omega, by omega⟩

theorem rect_acts {x y w h : Int} {px py : Nat} (c : Colour) (hx : px < screenW) (hy : py < screenH)
    (hin : inRect x y w h px py) : ActsOnPixel (rect x y w h c) px py (applyColour c) := by
  obtain ⟨h1, h2, h3, h4⟩ := hin
  refine forLoop_hits (k := (py - y).toNat) ((loopCount_spec _ _).mpr (by omega))
    (hline_acts c hx hy ⟨h1, h2, by omega⟩) fun j _ hj => hline_misses c hx hy ?_
  rintro ⟨-, -, h5⟩
  omega

theorem rect_misses {x y w h : Int} {px py : Nat} (c : Colour) (hx : px < screenW) (hy : py < screenH)
    (hin : ¬ inRect x y w h px py) : ActsOnPixel (rect x y w h c) px py id := by
  refine forLoop_misses fun k hk => hline_misses c hx hy ?_
  rintro ⟨h1, h2, h3⟩
  have := (loopCount_spec _ _).mp hk
  exact hin ⟨h1, h2, by omega, by omega⟩

/-! ### Lists of positions -/

theorem plot_misses {ps : List (Int × Int)} {px py : Nat} (c : Colour) (hx : px < screenW) (hy : py < screenH)
    (h : ((px : Int), (py : Int)) ∉ ps) : ActsOnPixel (plot ps c) px py id := by
  intro fb
  induction ps generalizing fb with
  | nil => rfl
  | cons p ps ih =>
    rw [List.mem_cons, not_or] at h
    have : plot (p :: ps) c fb = plot ps c (putPixel p.1 p.2 c fb) := rfl
    rw [this, ih h.2, id, id]
    exact putPixel_misses c hx hy (fun e => h.1 (Prod.ext e.1.symm e.2.symm)) fb

theorem plot_acts {ps : List (Int × Int)} {px py : Nat} (c : Colour) (hx : px < screenW) (hy : py < screenH)
    (hd : ps.Nodup) (h : ((px : Int), (py : Int)) ∈ ps) : ActsOnPixel (plot ps c) px py (applyColour c) := by
  intro fb
  induction ps generalizing fb with
  | nil => cases h
  | cons p ps ih =>
    have e : plot (p :: ps) c fb = plot ps c (putPixel p.1 p.2 c fb) := rfl
    rw [List.nodup_cons] at hd
    rw [e]
    by_cases hp : ((px : Int), (py : Int)) = p
    · subst hp
      rw [plot_misses c hx hy hd.1, id, putPixel_acts c hx hy ⟨rfl, rfl⟩ fb]
    · rw [List.mem_cons, or_iff_right hp] at h
      rw [ih hd.2 h, putPixel_misses c hx hy (fun e => hp (Prod.ext e.1.symm e.2.symm)) fb, id]

/-! ### Bitmaps -/

theorem bitmap_acts {m : Memory} {x y : Int} {base w h px py : Nat} {fg bg : Colour} (hx : px < screenW)
    (hy : py < screenH) (hin : inRect x y w h px py) :
    ActsOnPixel (bitmap m x y base w h fg bg) px py
      (applyColour (if srcBit m base w (px - x).toNat (py - y).toNat then fg else bg)) := by
  obtain ⟨h1, h2, h3, h4⟩ := hin
  refine forLoop_hits (k := (py - y).toNat) (by omega)
    (forLoop_hits (k := (px - x).toNat) (by omega) (putPixel_acts _ hx hy ⟨by omega, by omega⟩)
      fun i _ hi => putPixel_misses _ hx hy ?_)
    fun j _ hj => forLoop_misses fun i _ => putPixel_misses _ hx hy ?_
  · rintro ⟨h5, -⟩; omega
  · rintro ⟨-, h5⟩; omega

theorem bitmap_misses {m : Memory} {x y : Int} {base w h px py : Nat} {fg bg : Colour} (hx : px < screenW)
    (hy : py < screenH) (hin : ¬ inRect x y w h px py) :
    ActsOnPixel (bitmap m x y base w h fg bg) px py id := by
  refine forLoop_misses fun j hj => forLoop_misses fun i hi => putPixel_misses _ hx hy ?_
  rintro ⟨h5, h6⟩
  exact hin ⟨by omega, by omega, by omega, by omega⟩

end Sys2Proof.Machine
end

