-- ==== Sys2Proof/Laws/Glyph.lean ====
section
/-! SUPPORT. Laws of the glyph renderer: what one block, and a whole glyph, do to one pixel. -/

namespace Sys2Proof.Machine

/-- What a glyph does to a pixel whose source pixel is (i, j). -/
def glyphAct (g : GlyphPixels) (c : Byte) (fg bg : Colour) (i j : Nat) (old : Bool) : Bool :=
  if g c i j then applyColour fg old else if bg = fg then old else applyColour bg old

theorem glyphBlock_acts {g : GlyphPixels} {x y : Int} {c : Byte} {fg bg : Colour} {s i j px py : Nat}
    (hx : px < screenW) (hy : py < screenH) (hin : inRect (x + i * s) (y + j * s) s s px py) :
    ActsOnPixel (glyphBlock g x y c fg bg s i j) px py (glyphAct g c fg bg i j) := by
  intro fb
  unfold glyphBlock glyphAct
  split
  · exact rect_acts fg hx hy hin fb
  · by_cases h : bg = fg
    · simp [h]
    · rw [if_pos h, if_neg h]
      exact rect_acts bg hx hy hin fb

theorem glyphBlock_misses {g : GlyphPixels} {x y : Int} {c : Byte} {fg bg : Colour} {s i j px py : Nat}
    (hx : px < screenW) (hy : py < screenH) (hin : ¬ inRect (x + i * s) (y + j * s) s s px py) :
    ActsOnPixel (glyphBlock g x y c fg bg s i j) px py id := by
  intro fb
  unfold glyphBlock
  split
  · exact rect_misses fg hx hy hin fb
  · split
    · exact rect_misses bg hx hy hin fb
    · rfl

/-- An offset into the scaled cell lies in exactly one block, that of its quotient by the scale. -/
theorem offset_in_block {d s i : Nat} (hs : 0 < s) : (i * s ≤ d ∧ d < i * s + s) ↔ i = d / s := by
  constructor
  · rintro ⟨h1, h2⟩
    exact ((Nat.div_eq_of_lt_le h1 (by rw [Nat.add_mul, Nat.one_mul]; exact h2))).symm
  · rintro rfl
    have := Nat.div_add_mod d s
    have := Nat.mod_lt d hs
    rw [Nat.mul_comm]
    omega

/-- The pixel lies in the block of (i, j) iff (i, j) is its source pixel, for a pixel right of and below the origin. -/
theorem inRect_block {x y : Int} {s i j px py : Nat} (hs : 0 < s) (hx : x ≤ px) (hy : y ≤ py) :
    inRect (x + i * s) (y + j * s) s s px py ↔ i = (px - x).toNat / s ∧ j = (py - y).toNat / s := by
  rw [← offset_in_block (d := (px - x).toNat) hs, ← offset_in_block (d := (py - y).toNat) hs]
  simp only [← Nat.cast_mul]
  unfold inRect
  generalize i * s = a
  generalize j * s = b
  omega

theorem glyph_acts {g : GlyphPixels} {gw gh : Nat} {x y : Int} {c : Byte} {fg bg : Colour} {s px py : Nat}
    (hx : px < screenW) (hy : py < screenH) (hin : inRect x y (gw * s : Nat) (gh * s : Nat) px py) :
    ActsOnPixel (glyph g gw gh x y c fg bg s) px py
      (glyphAct g c fg bg ((px - x).toNat / s) ((py - y).toNat / s)) := by
  obtain ⟨h1, h2, h3, h4⟩ := hin
  have hs : 0 < s := by
    rcases Nat.eq_zero_or_pos s with rfl | h
    · simp only [Nat.mul_zero] at h2; omega
    · exact h
  refine forLoop_hits (k := (px - x).toNat / s) ((Nat.div_lt_iff_lt_mul hs).mpr (by omega))
    (forLoop_hits (k := (py - y).toNat / s) ((Nat.div_lt_iff_lt_mul hs).mpr (by omega))
      (glyphBlock_acts hx hy ((inRect_block hs h1 h3).mpr ⟨rfl, rfl⟩))
      fun j _ hj => glyphBlock_misses hx hy fun e => hj ((inRect_block hs h1 h3).mp e).2)
    fun i _ hi => forLoop_misses fun j _ => glyphBlock_misses hx hy fun e => hi ((inRect_block hs h1 h3).mp e).1

/-- Outside the scaled cell a glyph writes nothing. -/
theorem glyph_misses {g : GlyphPixels} {gw gh : Nat} {x y : Int} {c : Byte} {fg bg : Colour} {s px py : Nat}
    (hx : px < screenW) (hy : py < screenH) (hin : ¬ inRect x y (gw * s : Nat) (gh * s : Nat) px py) :
    ActsOnPixel (glyph g gw gh x y c fg bg s) px py id := by
  refine forLoop_misses fun i hi => forLoop_misses fun j hj => glyphBlock_misses hx hy fun e => hin ?_
  obtain ⟨h1, h2, h3, h4⟩ := e
  have hw : (i + 1) * s ≤ gw * s := Nat.mul_le_mul_right s hi
  have hh : (j + 1) * s ≤ gh * s := Nat.mul_le_mul_right s hj
  rw [Nat.add_mul, Nat.one_mul] at hw hh
  simp only [← Nat.cast_mul] at h1 h2 h3 h4
  unfold inRect
  generalize i * s = a at *
  generalize j * s = b at *
  omega

end Sys2Proof.Machine
end

