-- ==== Sys2Proof/Laws/Line.lean ====
section
/-! SUPPORT. Laws of Line's loop: how many positions it emits, and the k-th of them in closed form. -/

namespace Sys2Proof.Machine

@[simp] theorem lineSteps_length (dx dy ystep : Int) (n : Nat) (x y e : Int) :
    (lineSteps dx dy ystep n x y e).length = n := by
  induction n generalizing x y e with
  | zero => rfl
  | succ n ih =>
    unfold lineSteps
    split <;> simp [ih]

/-- One step of the loop keeps the error term in 0 .. dx - 1, and the k-th position has gone as many steps on the minor
axis as that takes. -/
theorem lineSteps_getElem? {dx dy ystep : Int} {n : Nat} {x y e : Int} {k : Nat} (hdy : 0 ≤ dy) (hle : dy ≤ dx)
    (he : 0 ≤ e) (hlt : e < dx) (hk : k < n) :
    (lineSteps dx dy ystep n x y e)[k]? = some (x + k, y + ystep * ((k * dy - e + dx - 1) / dx)) := by
  induction n generalizing x y e k with
  | zero => omega
  | succ n ih =>
    have hpos : 0 < dx := by omega
    unfold lineSteps
    cases k with
    | zero =>
      have h0 : (-e + dx - 1) / dx = 0 := Int.ediv_eq_zero_of_lt (by omega) (by omega)
      simp [h0]
    | succ k =>
      rw [List.getElem?_cons_succ]
      split
      · rename_i hneg
        rw [ih (by omega) (by omega) (by omega)]
        have h1 : ((k + 1 : Nat) * dy - e + dx - 1) / dx = (k * dy - (e - dy + dx) + dx - 1) / dx + 1 := by
          rw [← Int.add_mul_ediv_right _ 1 (by omega : dx ≠ 0)]
          congr 1
          push_cast
          ring
        rw [h1, Option.some.injEq, Prod.mk.injEq]
        constructor
        · push_cast; ring
        · ring
      · rename_i hneg
        rw [ih (by omega) (by omega) (by omega)]
        have h1 : ((k + 1 : Nat) * dy - e + dx - 1) = (k * dy - (e - dy) + dx - 1) := by
          push_cast
          ring
        rw [h1, Option.some.injEq, Prod.mk.injEq]
        constructor
        · push_cast; ring
        · rfl

/-- The positions of a run along the major axis have their major coordinates one after the other, each once. -/
theorem lineSteps_fst (dx dy ystep : Int) (n : Nat) (x y e : Int) :
    (lineSteps dx dy ystep n x y e).map Prod.fst = (List.range n).map fun k : Nat => x + k := by
  induction n generalizing x y e with
  | zero => rfl
  | succ n ih =>
    have h : ((List.range (n + 1)).map fun k : Nat => x + (k : Int)) =
        x :: (List.range n).map fun k : Nat => (x + 1) + (k : Int) := by
      rw [List.range_succ_eq_map, List.map_cons, List.map_map]
      simp [Function.comp_def, Int.add_assoc, Int.add_comm 1]
    rw [h]
    unfold lineSteps
    split <;> simp [ih]

end Sys2Proof.Machine
end

