-- ==== Sys2Proof/Laws/Memory.lean ====
section
/-! SUPPORT. Laws of the listed memory (BM): the canonical form is kept, read after write. -/

namespace Sys2Proof.Machine.Memory

theorem wf_nil : Memory.wf [] := ⟨List.Pairwise.nil, fun _ h => nomatch h⟩

/-- Every address listed after a write was listed before or is the address written. -/
theorem mem_write {m : Memory} {a : Nat} {v : Byte} {c : Host.Cell} (h : c ∈ Memory.write m a v) :
    c = (a, v) ∨ c ∈ m := by
  induction m with
  | nil => simpa [Memory.write] using h
  | cons d m ih =>
    obtain ⟨b, w⟩ := d
    unfold Memory.write at h
    split at h
    · simpa using h
    · split at h
      · rcases List.mem_cons.mp h with h | h
        · exact .inl h
        · exact .inr (List.mem_cons_of_mem _ h)
      · rcases List.mem_cons.mp h with h | h
        · exact .inr (h ▸ List.mem_cons_self)
        · exact (ih h).imp id (List.mem_cons_of_mem _)

/-- A write keeps the canonical form. -/
theorem wf_write {m : Memory} {a : Nat} {v : Byte} (h : Memory.wf m) (ha : a < 2 ^ 32) :
    Memory.wf (Memory.write m a v) := by
  refine ⟨?_, fun c hc => (mem_write hc).elim (fun e => e ▸ ha) (h.2 c)⟩
  induction m with
  | nil => exact List.pairwise_singleton _ _
  | cons d m ih =>
    obtain ⟨b, w⟩ := d
    obtain ⟨hb, hm⟩ := List.pairwise_cons.mp h.1
    unfold Memory.write
    split
    · rename_i hab
      refine List.pairwise_cons.mpr ⟨fun c hc => ?_, h.1⟩
      rcases List.mem_cons.mp hc with rfl | hc
      · exact hab
      · exact Nat.lt_trans hab (hb c hc)
    · split
      · rename_i hab
        subst hab
        exact List.pairwise_cons.mpr ⟨hb, hm⟩
      · rename_i h1 h2
        refine List.pairwise_cons.mpr ⟨fun c hc => ?_, ih ⟨hm, fun c hc => h.2 c (List.mem_cons_of_mem _ hc)⟩⟩
        rcases mem_write hc with rfl | hc
        · exact Nat.lt_of_le_of_ne (Nat.le_of_not_lt h1) (Ne.symm h2)
        · exact hb c hc

theorem listed_write_same (m : Memory) (a : Nat) (v : Byte) : (Memory.write m a v).listed a = some v := by
  induction m with
  | nil => simp [Memory.write, Memory.listed]
  | cons d m ih =>
    obtain ⟨b, w⟩ := d
    unfold Memory.write
    split
    · simp [Memory.listed]
    · split
      · simp [Memory.listed]
      · rename_i h1 h2
        simp [Memory.listed, h2, ih]

theorem listed_write_other (m : Memory) {a x : Nat} (v : Byte) (h : x ≠ a) :
    (Memory.write m a v).listed x = m.listed x := by
  induction m with
  | nil => simp [Memory.write, Memory.listed, h]
  | cons d m ih =>
    obtain ⟨b, w⟩ := d
    unfold Memory.write
    split
    · simp [Memory.listed, h]
    · split
      · rename_i h1 h2
        subst h2
        simp [Memory.listed, h]
      · simp only [Memory.listed, ih]

/-- In canonical form a listed cell is what its address reads as. -/
theorem listed_of_mem {m : Memory} {a : Nat} {v : Byte} (h : Memory.wf m) (hm : (a, v) ∈ m) : m.listed a = some v := by
  induction m with
  | nil => cases hm
  | cons d m ih =>
    obtain ⟨b, w⟩ := d
    obtain ⟨hb, hp⟩ := List.pairwise_cons.mp h.1
    unfold Memory.listed
    rcases List.mem_cons.mp hm with e | hm
    · cases e; simp
    · have : b < a := hb _ hm
      rw [if_neg (by omega)]
      exact ih ⟨hp, fun c hc => h.2 c (List.mem_cons_of_mem _ hc)⟩ hm

end Sys2Proof.Machine.Memory

namespace Sys2Proof.Machine

theorem bmRead_mod (m : Memory) (a : Nat) : bmRead m (a % 2 ^ 32) = bmRead m a := by
  rw [bmRead, bmRead, Nat.mod_mod]

theorem bmRead_of_listed {m : Memory} {a : Nat} {v : Byte} (h : m.listed (a % 2 ^ 32) = some v) : bmRead m a = v := by
  rw [bmRead, h, Option.getD_some]

end Sys2Proof.Machine
end

