-- ==== Sys2Proof/Laws/PerInstr.lean ====
section
/-! SUPPORT. Per command: the word it encodes to carries its OP and has every bit its format does not use zero
(30_encoding R51, R53, R56). -/

namespace Sys2Proof.Laws.RowBits

/-- The word of a command is an instance of its row: OP is the row's, and the unused bits are zero. -/
def Statement (i : Instr) : Prop :=
  (Fields.ofWord (encode i)).op = i.opcode.byte ∧ (Fields.ofWord (encode i)).unusedZero i.opcode.format.used = true

/-- A byte operand leaves the high byte of its field zero. -/
theorem byteField_high (b : Byte) : byteField b &&& 0xFF00#16 = 0#16 := by
  apply BitVec.eq_of_getLsbD_eq
  intro k hk
  have h : BitVec.getLsbD 0xFF00#16 k = decide (8 ≤ k) := by interval_cases k <;> rfl
  rw [BitVec.getLsbD_and, h, byteField, BitVec.zeroExtend, BitVec.getLsbD_setWidth]
  by_cases h8 : 8 ≤ k
  · simp [BitVec.getLsbD_of_ge b k h8]
  · simp [h8]

theorem of_fields {i : Instr} {f : Format} (hf : i.opcode.format = f) (ho : i.fields.op = i.opcode.byte)
    (hz : i.fields.unusedZero f.used = true) : Statement i := by
  rw [Statement, encode, Fields.ofWord_toWord, hf]
  exact ⟨ho, hz⟩

theorem init : Statement .init :=
  of_fields (f := .z) rfl rfl (by simp [Instr.fields, Format.used, Fields.unusedZero, Fields.zero])

theorem update : Statement .update :=
  of_fields (f := .z) rfl rfl (by simp [Instr.fields, Format.used, Fields.unusedZero, Fields.zero])

theorem on : Statement .on :=
  of_fields (f := .z) rfl rfl (by simp [Instr.fields, Format.used, Fields.unusedZero, Fields.zero])

theorem off : Statement .off :=
  of_fields (f := .z) rfl rfl (by simp [Instr.fields, Format.used, Fields.unusedZero, Fields.zero])

theorem clear : Statement .clear :=
  of_fields (f := .z) rfl rfl (by simp [Instr.fields, Format.used, Fields.unusedZero, Fields.zero])

theorem fillscreen a : Statement (.fillscreen a) :=
  of_fields (f := .c) rfl rfl (by simp [Instr.fields, Format.used, Fields.unusedZero, Fields.zero])

theorem setlocation a b : Statement (.setlocation a b) :=
  of_fields (f := .u) rfl rfl (by simp [Instr.fields, Format.used, Fields.unusedZero, Fields.zero])

theorem settextsize a : Statement (.settextsize a) :=
  of_fields (f := .n) rfl rfl (by simp [Instr.fields, Format.used, Fields.unusedZero, Fields.zero, byteField_high])

theorem drawpixel a b c : Statement (.drawpixel a b c) :=
  of_fields (f := .p) rfl rfl (by simp [Instr.fields, Format.used, Fields.unusedZero, Fields.zero])

theorem drawline a b c d e : Statement (.drawline a b c d e) :=
  of_fields (f := .q) rfl rfl (by simp [Instr.fields, Format.used, Fields.unusedZero, Fields.zero])

theorem drawfastvline a b c d : Statement (.drawfastvline a b c d) :=
  of_fields (f := .s) rfl rfl (by simp [Instr.fields, Format.used, Fields.unusedZero, Fields.zero])

theorem drawfasthline a b c d : Statement (.drawfasthline a b c d) :=
  of_fields (f := .s) rfl rfl (by simp [Instr.fields, Format.used, Fields.unusedZero, Fields.zero])

theorem fillrect a b c d e : Statement (.fillrect a b c d e) :=
  of_fields (f := .q) rfl rfl (by simp [Instr.fields, Format.used, Fields.unusedZero, Fields.zero])

theorem drawchar a b c d e f : Statement (.drawchar a b c d e f) :=
  of_fields (f := .g) rfl rfl (by simp [Instr.fields, Format.used, Fields.unusedZero, Fields.zero, byteField_high])

theorem drawcharfont2 a b c d e f : Statement (.drawcharfont2 a b c d e f) :=
  of_fields (f := .g) rfl rfl (by simp [Instr.fields, Format.used, Fields.unusedZero, Fields.zero, byteField_high])

theorem write a : Statement (.write a) :=
  of_fields (f := .w) rfl rfl (by simp [Instr.fields, Format.used, Fields.unusedZero, Fields.zero, byteField_high])

theorem drawbitmap a b c d e f g : Statement (.drawbitmap a b c d e f g) :=
  of_fields (f := .b) rfl rfl (by simp [Instr.fields, Format.used, Fields.unusedZero, Fields.zero])

end Sys2Proof.Laws.RowBits
end

