-- ==== Sys2Proof/Tests/Slice0.lean ====
section
/-! SUPPORT. Tests. Every expected result is from spec/: the words and vectors of 95_test_vectors.md (V-..., P1 to P9,
the programs), or the encodings of 30_encoding.md written out. -/

set_option Elab.async false

namespace Sys2Proof.Tests

open Sys2Proof.Machine

/-! ### Words -/

/-- A word from its ten fields in the order of 30_encoding R51, bit 127 leftmost. -/
def bits (base : BitVec 32) (rsv1 a3 a2 a1 a0 : BitVec 16) (rsv0 : BitVec 4) (bg color : BitVec 2) (op : BitVec 8) :
    CmdWord := base ++ rsv1 ++ a3 ++ a2 ++ a1 ++ a0 ++ rsv0 ++ bg ++ color ++ op

/-- V-E8. -/
theorem test_decode_control :
    decode 0x00000000000000000000000000000001 = .ok .init ∧ decode 0x00000000000000000000000000000002 = .ok .update ∧
    decode 0x00000000000000000000000000000003 = .ok .on ∧ decode 0x00000000000000000000000000000004 = .ok .off ∧
    decode 0x00000000000000000000000000000005 = .ok .clear := by decide +kernel

/-- V-E9, V-E10, V-E11. -/
theorem test_decode_fill_and_cursor :
    decode 0x00000000000000000000000000000206 = .ok (.fillscreen .inverse) ∧
    decode 0x000000000000000000000014000A0007 = .ok (.setlocation 10 20) ∧
    decode 0x00000000000000000000000000020008 = .ok (.settextsize 2) := by decide +kernel

/-- V-E1, V-E2. -/
theorem test_decode_drawpixel :
    decode 0x00000000000000000000000A00050110 = .ok (.drawpixel 5 10 .on) ∧
    decode 0x000000000000000000000000FFFF0110 = .ok (.drawpixel (-1) 0 .on) := by decide +kernel

/-- V-E3, Program 1 command 4, V-E12, V-E4. -/
theorem test_decode_raster :
    decode 0x00000000000000010003000000000111 = .ok (.drawline 0 0 3 1 .on) ∧
    decode 0x00000000000000000040000000000112 = .ok (.drawfastvline 0 0 64 .on) ∧
    decode 0x00000000000000000014003F00780213 = .ok (.drawfasthline 120 63 20 .inverse) ∧
    decode 0x00000000000000050005003E007E0114 = .ok (.fillrect 126 62 5 5 .on) := by decide +kernel

/-- V-E5, the same word with OP 0x21 (30_encoding R56), V-E6, V-E7. -/
theorem test_decode_text_and_blit :
    decode 0x000000000000000200410008000A0120 = .ok (.drawchar 10 8 0x41 .on .off 2) ∧
    decode 0x000000000000000200410008000A0121 = .ok (.drawcharfont2 10 8 0x41 .on .off 2) ∧
    decode 0x00000000000000000041000000000022 = .ok (.write 0x41) ∧
    decode 0x00001000000000080008000000000130 = .ok (.drawbitmap 0 0 0x1000 8 8 .on .off) := by decide +kernel

/-- DRAWBITMAP -1, 2, 0x80000001, 3, 4, INVERSE, ON, each field's bits from 30_encoding R51, R53, R54. -/
theorem test_bits_drawbitmap :
    decode (bits 0b10000000000000000000000000000001 0b0000000000000000 0b0000000000000100 0b0000000000000011
      0b0000000000000010 0b1111111111111111 0b0000 0b01 0b10 0b00110000) =
      .ok (.drawbitmap (-1) 2 0x80000001 3 4 .inverse .on) := by decide +kernel

/-- DRAWCHAR 1, -2, 0xFF, OFF, INVERSE, 255, each field's bits from 30_encoding R51, R53, R54. -/
theorem test_bits_drawchar :
    decode (bits 0b0 0b0 0b0000000011111111 0b0000000011111111 0b1111111111111110 0b0000000000000001
      0b0000 0b10 0b00 0b00100000) = .ok (.drawchar 1 (-2) 0xFF .off .inverse 255) := by decide +kernel

/-- DRAWLINE 1, 2, 3, -4, INVERSE, each field's bits from 30_encoding R51, R53, R54. -/
theorem test_bits_drawline :
    decode (bits 0b0 0b0 0b1111111111111100 0b0000000000000011 0b0000000000000010 0b0000000000000001
      0b0000 0b00 0b10 0b00010001) = .ok (.drawline 1 2 3 (-4) .inverse) := by decide +kernel

/-- V-X1 to V-X5: reserved OP, reserved fields. -/
theorem test_refused_fields :
    decode 0x00000000000000000000000000000000 = .error .reservedOp ∧
    decode 0x00000000000000000000000000000009 = .error .reservedOp ∧
    decode 0x00000000000000000000000000000105 = .error .reservedField ∧
    decode 0x00000000000000000000000000001010 = .error .reservedField ∧
    decode 0x00000000000000000000000001020008 = .error .reservedField := by decide +kernel

/-- V-X6 to V-X11: reserved colour, zero scale, and which code wins. -/
theorem test_refused_values :
    decode 0x00000000000000000000000000000306 = .error .reservedColour ∧
    decode 0x00000000000000010041000000000D20 = .error .reservedColour ∧
    decode 0x00000000000000000041000000000120 = .error .zeroScale ∧
    decode 0x00000000000000000000000000000008 = .error .zeroScale ∧
    decode 0x00000000000000000000000000000301 = .error .reservedField ∧
    decode 0x00000001000000010003000000000111 = .error .reservedField := by decide +kernel

/-- V-E1, as bytes. -/
theorem test_bytes :
    CmdWord.toBytes 0x00000000000000000000000A00050110 =
      [0x10, 0x01, 0x05, 0x00, 0x0A, 0x00, 0x00, 0x00, 0x00, 0x00, 0x00, 0x00, 0x00, 0x00, 0x00, 0x00] ∧
    decodeBytes [0x10, 0x01, 0x05, 0x00, 0x0A, 0x00, 0x00, 0x00, 0x00, 0x00, 0x00, 0x00, 0x00, 0x00, 0x00, 0x00] =
      some (.ok (.drawpixel 5 10 .on)) ∧
    decodeBytes [0x10, 0x01] = none := by decide +kernel

/-- V-E2, V-E7 and a command without operands, as text. -/
theorem test_text :
    (Instr.drawpixel (-1) 0 .on).text = "DRAWPIXEL -1, 0, ON" ∧
    (Instr.drawbitmap 0 0 0x1000 8 8 .on .off).text = "DRAWBITMAP 0, 0, 4096, 8, 8, ON, OFF" ∧
    Instr.init.text = "INIT" := by decide +kernel

/-- 30_encoding R60: PRINT of "AB". -/
theorem test_print : Instr.print [0x41, 0x42] = [.write 0x41, .write 0x42] := rfl

/-! ### WellFormed -/

theorem test_wellFormed_settextsize : (Instr.settextsize 0).wellFormed = false := by decide

theorem test_wellFormed_drawchar : (Instr.drawchar 0 0 0x41 .on .off 0).wellFormed = false := by decide

theorem test_wellFormed_drawcharfont2 : (Instr.drawcharfont2 0 0 0x41 .on .off 0).wellFormed = false := by decide

/-! ### A small state -/

/-- The illustrative font1 entries of 95_test_vectors.md, for 'A' and 'B'; every other code blank. -/
def font1 : Vector Glyph1 256 :=
  ((Vector.replicate 256 #v[0, 0, 0, 0, 0]).set 0x41 #v[0x7C, 0x12, 0x11, 0x12, 0x7C]).set 0x42
    #v[0x7F, 0x49, 0x49, 0x49, 0x36]

/-- The artificial font2 table of 42_glyph R94: a 3×2 cell, pixel (i, j) foreground iff i = j. -/
def font2 : Vector Glyph2 256 := Vector.replicate 256 [[true, false], [false, true], [false, false]]

/-- The spec's default parameters with DEV_ADDR 0x3C and the illustrative fonts. -/
def cfg : Params := Config.withDefaults 0x3C font1 2 1 font2 true

/-- A framebuffer with the given bytes, every other byte `fill`. -/
def fbOf (fill : Byte) (bytes : List (Nat × Byte)) : Framebuffer :=
  bytes.foldl (fun fb b => fb.write b.1 b.2) (Vector.replicate fbSize fill)

/-- The bytes of BM that V-B4, V-B5 and V-B6 use. -/
def bm : Memory := [(0, 0xFF), (1, 0xC0), (2, 0x00), (3, 0x40), (0x2000, 0x81), (0x2001, 0x42), (0x2002, 0x24),
  (0x2003, 0x18), (0x2004, 0x18), (0x2005, 0x24), (0x2006, 0x42), (0x2007, 0x81)]

/-- An engine as after reset with a given framebuffer and word wrap on. -/
def start (fb : Framebuffer) : State where
  fb := fb
  curX := 0
  curY := 0
  textSize := 1
  wordWrap := true
  dstate := .uninit
  status := ⟨false, false⟩
  cfg := cfg
  bm := bm
  bus := []
  responses := []
  inputs := []
  transport := []
  drawn := 0
  resets := 1

/-- The same with a zero framebuffer. -/
def blank : State := start (fbOf 0 [])

/-- Whether a command completes with a state that passes a check. -/
def ends (i : Instr) (s : State) (check : State → Bool) : Bool :=
  match exec i s with
  | .next t => check t
  | .fault _ => false
  | .refused _ => false

/-- The framebuffer of a state is the given one. -/
def hasFb (fb : Framebuffer) (t : State) : Bool := t.fb.toList == fb.toList

/-! ### Pixels and fills -/

theorem test_V_P2 : ends (.drawpixel 127 63 .on) blank (hasFb (fbOf 0 [(1023, 0x80)])) = true := by decide +kernel

/-- V-P5, the third of its five commands. -/
theorem test_V_P5 : ends (.drawpixel (-1) 0 .on) blank (hasFb (fbOf 0 [])) = true := by decide +kernel

theorem test_V_P8 : ends (.fillscreen .on) blank (hasFb (fbOf 0xFF [])) = true := by decide +kernel

/-- V-P9. -/
theorem test_V_P9 : ends (.fillscreen .inverse) (start (Framebuffer.ofBytes fun a => BitVec.ofNat 8 a))
    (hasFb (Framebuffer.ofBytes fun a => BitVec.ofNat 8 (255 - a % 256))) = true := by decide +kernel

theorem test_V_P10 : ends .clear { start (fbOf 0x5A []) with curX := 9, curY := 9, textSize := 3 }
    (fun t => hasFb (fbOf 0 []) t && t.curX == 9 && t.curY == 9 && t.textSize == 3) = true := by decide +kernel

/-! ### Rasterizer -/

theorem test_V_L4 : ends (.drawline 2 7 0 0 .on) blank (hasFb (fbOf 0 [(0, 0x03), (1, 0x3C), (2, 0xC0)])) = true := by
  decide +kernel

theorem test_V_L8 : ends (.drawline (-2) (-1) 2 1 .on) blank (hasFb (fbOf 0 [(0, 0x01), (1, 0x01), (2, 0x02)])) = true := by
  decide +kernel

theorem test_V_F1 : ends (.drawfastvline 3 6 4 .on) blank (hasFb (fbOf 0 [(3, 0xC0), (131, 0x03)])) = true := by
  decide +kernel

/-- V-F4, the last of its four commands. -/
theorem test_V_F4 : ends (.drawfastvline 10 10 (-5) .on) blank (hasFb (fbOf 0 [])) = true := by decide +kernel

theorem test_V_F3 : ends (.drawfasthline 120 63 20 .inverse) blank
    (hasFb (fbOf 0 ((List.range 8).map fun k => (1016 + k, 0x80)))) = true := by decide +kernel

theorem test_V_R1 : ends (.fillrect 126 62 5 5 .on) blank (hasFb (fbOf 0 [(1022, 0xC0), (1023, 0xC0)])) = true := by
  decide +kernel

/-- V-R5, its second command on what its first leaves. -/
theorem test_V_R5 : ends (.fillrect 2 2 4 4 .inverse) (start (fbOf 0 [(0, 0x0F), (1, 0x0F), (2, 0x0F), (3, 0x0F)]))
    (hasFb (fbOf 0 [(0, 0x0F), (1, 0x0F), (2, 0x33), (3, 0x33), (4, 0x3C), (5, 0x3C)])) = true := by decide +kernel

/-! ### Glyphs and text -/

theorem test_V_G2 : ends (.drawchar 0 0 0x41 .on .off 2) blank
    (hasFb (fbOf 0 [(0, 0xF0), (1, 0xF0), (2, 0x0C), (3, 0x0C), (4, 0x03), (5, 0x03), (6, 0x0C), (7, 0x0C), (8, 0xF0),
      (9, 0xF0), (128, 0x3F), (129, 0x3F), (130, 0x03), (131, 0x03), (132, 0x03), (133, 0x03), (134, 0x03),
      (135, 0x03), (136, 0x3F), (137, 0x3F)])) = true := by decide +kernel

theorem test_V_G5 : ends (.drawchar 0 0 0x41 .off .off 1) (start (fbOf 0xFF []))
    (hasFb (fbOf 0xFF [(0, 0x83), (1, 0xED), (2, 0xEE), (3, 0xED), (4, 0x83)])) = true := by decide +kernel

/-- The example of 42_glyph R94. -/
theorem test_font2 : ends (.drawcharfont2 0 0 0x20 .on .on 2) blank
    (hasFb (fbOf 0 [(0, 0x03), (1, 0x03), (2, 0x0C), (3, 0x0C)])) = true := by decide +kernel

/-- 42_glyph R96, with the largest values. -/
theorem test_setlocation : ends (.setlocation 65535 20) blank
    (fun t => t.curX == 65535 && t.curY == 20 && hasFb (fbOf 0 []) t) = true := by decide +kernel

/-- The example of 42_glyph R97. -/
theorem test_settextsize : ends (.settextsize 2) blank (fun t => t.textSize == 2) = true := by decide +kernel

/-- V-W2, its newline after V-W1: the cursor goes from (6, 0) to (0, 7), and RET = 1. -/
theorem test_V_W2 : ends (.write 0x0A) { blank with curX := 6 }
    (fun t => t.curX == 0 && t.curY == 7 && hasFb (fbOf 0 []) t && t.responses == [0x00000001]) = true := by
  decide +kernel

/-- V-W3, its last character: from (126, 0) it wraps to (0, 7). -/
theorem test_V_W3 : ends (.write 0x42) { blank with curX := 126 }
    (fun t => t.curX == 6 && t.curY == 7 && hasFb (fbOf 0 [(0, 0x80), (1, 0x80), (2, 0x80), (3, 0x80), (128, 0x3F),
      (129, 0x24), (130, 0x24), (131, 0x24), (132, 0x1B)]) t) = true := by decide +kernel

/-! ### Blitter -/

/-- V-B5: every pixel toggled once, although the colours are equal. -/
theorem test_V_B5 : ends (.drawbitmap 0 0 0x2000 8 8 .inverse .inverse) blank
    (hasFb (fbOf 0 ((List.range 8).map fun k => (k, 0xFF)))) = true := by decide +kernel

theorem test_V_B6 : ends (.drawbitmap 0 0 0 10 2 .on .off) blank
    (hasFb (fbOf 0 [(0, 0x01), (1, 0x01), (2, 0x01), (3, 0x01), (4, 0x01), (5, 0x01), (6, 0x01), (7, 0x01), (8, 0x01),
      (9, 0x03)])) = true := by decide +kernel

/-! ### Display controller -/

/-- V-D1: the fourteen transfers, and DSTATE = On. -/
theorem test_V_D1 : ends .init blank (fun t => t.dstate == .on && t.bus == busEvents 0x3C [
      ⟨0x00, [0xAE]⟩, ⟨0x00, [0xD5, 0x80]⟩, ⟨0x00, [0xA8, 0x3F]⟩, ⟨0x00, [0xD3, 0x00]⟩, ⟨0x00, [0x40]⟩,
      ⟨0x00, [0x8D, 0x14]⟩, ⟨0x00, [0xA1]⟩, ⟨0x00, [0xC8]⟩, ⟨0x00, [0xDA, 0x12]⟩, ⟨0x00, [0x81, 0xCF]⟩,
      ⟨0x00, [0xD9, 0xF1]⟩, ⟨0x00, [0xDB, 0x40]⟩, ⟨0x00, [0x20, 0x00]⟩, ⟨0x00, [0xAF]⟩]) = true := by decide +kernel

/-- V-D2, its stream written out (44_display R121). -/
theorem test_V_D2 : ends .off { blank with dstate := .on }
    (fun t => t.dstate == .off &&
      t.bus == [.busBegin 0x3C, .busWrite 0x00, .busWrite 0xAE, .busEnd]) = true := by decide +kernel

/-- V-D3. -/
theorem test_V_D3 : ends .on { blank with dstate := .off }
    (fun t => t.dstate == .on &&
      t.bus == [.busBegin 0x3C, .busWrite 0x00, .busWrite 0xAF, .busEnd]) = true := by decide +kernel

/-- V-D4. -/
theorem test_V_D4 : ends .on blank
    (fun t => t.dstate == .uninit &&
      t.bus == [.busBegin 0x3C, .busWrite 0x00, .busWrite 0xAF, .busEnd]) = true := by decide +kernel

/-- V-D8: the fifth BusWrite of an UPDATE, its eighth transaction, is answered with a failure. -/
theorem test_V_D8 : ends .update
    { blank with transport := List.replicate 7 (some ⟨true, 0⟩) ++ [some ⟨false, 0⟩] }
    (fun t => t.status.busFail && t.responses == [0x00200000]) = true := by decide +kernel

/-- V-D9: with FB = (133: 04) and CHUNK = 16, data transfer 8 carries FB[128..143]. -/
theorem test_V_D9 : (updateTransfers cfg (fbOf 0 [(133, 0x04)]))[10]? =
    some ⟨0x40, [0x00, 0x00, 0x00, 0x00, 0x00, 0x04, 0x00, 0x00, 0x00, 0x00, 0x00, 0x00, 0x00, 0x00, 0x00, 0x00]⟩ := by
  decide +kernel

/-! ### Steps -/

/-- A step on the word of `SETLOCATION 10, 20` after reset (V-E10) sets the cursor. -/
theorem test_step : (match step (State.reset.withFetchWord 128 0x000000000000000000000014000A0007) with
    | .next t => t.curX == 10 && t.curY == 20 && t.inputs == []
    | .fault _ => false
    | .refused _ => false) = true := by decide +kernel

/-- V-X9 through step: RET = 0, ERR = 4, ST_ILLEGAL = 1, textSize as it was. -/
theorem test_step_refused : (match step (State.reset.withFetchWord 128 0x00000000000000000000000000000008) with
    | .next t => t.responses == [0x00140000] && t.textSize == 1
    | .fault _ => false
    | .refused _ => false) = true := by decide +kernel

/-! ### Witnesses: the hypotheses of each statement are met together -/

/-- The state `blank` with words presented. -/
def asked (words : List CmdWord) : State := { blank with inputs := words.map .command }

theorem witness_DecodeOfEncodeIsTheCommand :
    (Instr.settextsize 1).wellFormed = true ∧ (Instr.settextsize 255).wellFormed = true ∧
    (Instr.drawchar 0x8000 0x7FFF 0xFF .inverse .on 255).wellFormed = true := by decide

theorem witness_AcceptedWordIsEncodingOfItsCommand : decode 0x00000000000000000000000000020008 = .ok (.settextsize 2) := by
  decide +kernel

/-- A word of the FILLSCREEN row, with COLOR = 2 and with COLOR = 3, and words of no row. -/
theorem witness_DecoderFollowsMatchAndMask :
    (∃ r ∈ opcodeTable, r.admits 0x206 = true) ∧ (∃ r ∈ opcodeTable, r.admits 0x306 = true) ∧
    (∀ r ∈ opcodeTable, r.admits 0x00 = false) ∧ (∀ r ∈ opcodeTable, r.admits 0x1006 = false) := by decide +kernel

/-- One word for each clause: reserved OP; RSV0 = 1; COLOR = 3 and BG = 3; scale 0; accepted. -/
theorem witness_RefusalCodeIsTheFirstThatApplies :
    (∀ o ∈ Opcode.all, o.byte ≠ (Fields.ofWord 0x00).op) ∧
    ((Fields.ofWord 0x1010).rsv0 ≠ 0 ∧ Opcode.drawpixel.byte = (Fields.ofWord 0x1010).op) ∧
    ((Fields.ofWord 0x306).unusedZero Opcode.fillscreen.format.used = true ∧ (Fields.ofWord 0x306).color = 3) ∧
    ((Fields.ofWord 0x00000000000000010041000000000D20).unusedZero Opcode.drawchar.format.used = true ∧
      (Fields.ofWord 0x00000000000000010041000000000D20).bg = 3 ∧
      (Fields.ofWord 0x00000000000000010041000000000D20).color = 1) ∧
    ((Fields.ofWord 0x08).unusedZero Opcode.settextsize.format.used = true ∧ lowByte (Fields.ofWord 0x08).a0 = 0) ∧
    ((Fields.ofWord 0x00000000000000000041000000000120).unusedZero Opcode.drawchar.format.used = true ∧
      lowByte (Fields.ofWord 0x00000000000000000041000000000120).a3 = 0) ∧
    (Fields.ofWord 0xFF0008).unusedZero Opcode.settextsize.format.used = true ∧
    ((asked [0x00]).inputs = .command 0x00 :: [] ∧ decode 0x00 = .error .reservedOp) := by decide +kernel

theorem witness_StepRunsTheDecodedCommand :
    (asked [0x01]).inputs = .command 0x01 :: [] ∧ decode 0x01 = .ok .init := by decide +kernel

theorem witness_IdleStepChangesNothing : blank.inputs = [] := rfl

/-- A refused word with an accepted one behind it, and a step that keeps ILLEGAL. -/
theorem witness_IllegalCommandIsPreciseAndSticky :
    ((asked [0x00, 0x05]).inputs = .command 0x00 :: [.command 0x05] ∧ decode 0x00 = .error .reservedOp ∧
      decode 0x05 = .ok .clear) ∧
    (∃ t, step { asked [0x05] with status := ⟨true, false⟩ } = .next t ∧
      (asked [0x05]).inputs.head? ≠ some .reset) :=
  ⟨by decide +kernel, _, rfl, by decide +kernel⟩

/-- A refused word, a WRITE and a CLEAR. -/
theorem witness_EachCommandAnswersOneResponseWord :
    (∃ t, step (asked [0x00]) = .next t) ∧ (∃ t, step (asked [0x00000000000000000041000000000022]) = .next t) ∧
    (∃ t, step (asked [0x05]) = .next t) := ⟨⟨_, rfl⟩, ⟨_, rfl⟩, _, rfl⟩

theorem witness_ResetStepLeavesTheSpecValues :
    ({ blank with inputs := [.reset, .command 0x05] } : State).inputs = .reset :: [.command 0x05] := rfl

/-- The last address of BM; an address beyond it that is not that byte. -/
theorem witness_EnvironmentWriteChangesOneBitmapByte :
    ({ blank with inputs := [.bitmapWrite 0xFFFFFFFF 0x5A] } : State).inputs = .bitmapWrite 0xFFFFFFFF 0x5A :: [] ∧
    Memory.wf blank.bm ∧ 2 ^ 32 % 2 ^ 32 ≠ (0xFFFFFFFF : BitVec 32).toNat := by decide +kernel

/-- A command that stays off the bus completes, and so do bus commands. -/
theorem witness_OnlyBusCommandsAppendToTheStream :
    (∃ t, exec .clear blank = .next t) ∧ (∃ t, exec .init blank = .next t) ∧ (∃ t, exec .on blank = .next t) ∧
    (∃ t, exec .off blank = .next t) := ⟨⟨_, rfl⟩, ⟨_, rfl⟩, ⟨_, rfl⟩, _, rfl⟩

theorem witness_NonDrawingCommandsKeepTheFramebuffer :
    (∃ t, exec .init blank = .next t) ∧ (∃ t, exec (.setlocation 1 2) blank = .next t) ∧
    (∃ t, exec (.settextsize 3) blank = .next t) ∧ (Instr.write 0x41 ≠ .update) :=
  ⟨⟨_, rfl⟩, ⟨_, rfl⟩, ⟨_, rfl⟩, by decide⟩

theorem witness_TextStateWriters :
    (∃ t, exec (.drawchar 0 0 0x41 .on .off 1) blank = .next t) ∧ ¬ (∃ c, Instr.clear = .write c) ∧
    ¬ (∃ x y, Instr.clear = .setlocation x y) ∧ ¬ (∃ n, Instr.clear = .settextsize n) :=
  ⟨⟨_, rfl⟩, by simp, by simp, by simp⟩

/-- INIT; ON and OFF with DSTATE = Uninit and with DSTATE = Off; a command that leaves DSTATE. -/
theorem witness_DisplayStateTransitions :
    (∃ t, exec .init blank = .next t) ∧ (∃ t, exec .on blank = .next t) ∧
    (∃ t, exec .off { blank with dstate := .off } = .next t) ∧ (∃ t, exec .clear blank = .next t) :=
  ⟨⟨_, rfl⟩, ⟨_, rfl⟩, ⟨_, rfl⟩, _, rfl⟩

/-- The last of ON's four transactions, its BusEnd, is answered with a failure. -/
def endFails : State := { blank with transport := [some ⟨true, 0⟩, some ⟨true, 0⟩, some ⟨true, 0⟩, some ⟨true, 1⟩] }

/-- An executed command with a failed BusEnd, and a step that keeps BUSFAIL. -/
theorem witness_BusFailRecordsFailedAnswers :
    (Instr.on.wellFormed = true ∧ ∃ t, exec .on endFails = .next t) ∧ commandEvents .on endFails = [.busBegin 0x3C,
      .busWrite 0x00, .busWrite 0xAF, .busEnd] ∧ (endFails.answerAt 3).status ≠ 0 ∧
    (∃ t, step { asked [0x05] with status := ⟨false, true⟩ } = .next t ∧
      (asked [0x05]).inputs.head? ≠ some .reset) :=
  ⟨⟨rfl, _, rfl⟩, by decide +kernel, by decide +kernel, _, rfl, by decide +kernel⟩

theorem witness_EffectsDoNotDependOnTheAnswers :
    ∃ t u, exec .on blank = .next t ∧
      exec .on { blank with transport := [some ⟨false, 7⟩], drawn := 9 } =
        .next u := ⟨_, _, rfl, rfl⟩

/-- The last of ON's four transactions is never answered: k = 3. -/
def neverEnds : State := { blank with transport := [some ⟨true, 0⟩, some ⟨true, 0⟩, some ⟨true, 0⟩, none] }

/-- The stalled clause at its last transaction, and the other clause where the first answer after the command's
transactions never comes. -/
theorem witness_StalledTransportNeverCompletes :
    (3 < (commandEvents .on neverEnds).length ∧ neverEnds.transport[3]? = some none ∧
      ∀ j, j < 3 → neverEnds.transport[j]? ≠ some none) ∧
    (∀ k, k < (commandEvents .clear neverEnds).length → neverEnds.transport[k]? ≠ some none) := by decide +kernel

theorem blank_inv : blank.Inv := ⟨by decide, by decide +kernel, [], rfl, by simp⟩

theorem witness_StepKeepsTheInvariant : (asked [0x05]).Inv ∧ ∃ t, step (asked [0x05]) = .next t :=
  ⟨⟨by decide, by decide +kernel, [], rfl, by simp⟩, _, rfl⟩

/-- The four corners just off the screen and the two corners on it. -/
theorem witness_PutPixelWritesOneBitOrNothing :
    onScreen (-1) 0 = false ∧ onScreen 128 0 = false ∧ onScreen 0 (-1) = false ∧ onScreen 0 64 = false ∧
    onScreen 0 0 = true ∧ onScreen 127 63 = true := by decide

/-- On the screen (a byte that is not the pixel's is named) and off it. -/
theorem witness_DrawpixelPaintsItsPixel :
    (onScreen (127 : Half).toInt (63 : Half).toInt = true ∧ 1022 ≠ pixelAddr 127 63) ∧
    onScreen (128 : Half).toInt (0 : Half).toInt = false := by decide

theorem witness_DrawpixelOnThenOffRoundTrip :
    (∃ t u, exec (.drawpixel 127 63 .on) blank = .next t ∧ exec (.drawpixel 127 63 .off) t = .next u) ∧
    onScreen (128 : Half).toInt (63 : Half).toInt = false := ⟨⟨_, _, rfl, rfl⟩, by decide⟩

/-- DrawfasthlinePaintsItsRun, DrawfastvlinePaintsItsRun and FillrectPaintsItsRectangle: the lengths at which runs and
rectangles become empty. -/
theorem witness_empty_runs : (0 : Half).toInt ≤ 0 ∧ (0xFFFF : Half).toInt ≤ 0 ∧ ¬ (1 : Half).toInt ≤ 0 := by decide

/-- The screen itself, and a rectangle of 41_raster R84 that is larger. -/
theorem witness_FillrectOverTheScreenIsFillscreen :
    ((0 : Half).toInt ≤ 0 ∧ 128 ≤ (0 : Half).toInt + (128 : Half).toInt ∧ 64 ≤ (0 : Half).toInt + (64 : Half).toInt) ∧
    ((0xFFFB : Half).toInt ≤ 0 ∧ 128 ≤ (0xFFFB : Half).toInt + (300 : Half).toInt) := by decide

/-- Neighbours on a line that is not steep, on the diagonal and on a steep line. -/
theorem witness_LineHasNoGapsAndBothEnds :
    ((linePoints 0 0 3 1)[0]? = some (0, 0) ∧ (linePoints 0 0 3 1)[1]? = some (1, 0) ∧ |(1 : Int) - 0| ≤ |(3 : Int) - 0|) ∧
    ((linePoints 0 0 2 2)[2]? = some (2, 2) ∧ |(2 : Int) - 0| ≤ |(2 : Int) - 0|) ∧
    ((linePoints 0 0 1 3)[0]? = some (0, 0) ∧ |(1 : Int) - 0| < |(3 : Int) - 0|) := by decide +kernel

/-- The first and the last pixel of a line, a diagonal, and a steep line. -/
theorem witness_LineErrorTermInClosedForm :
    ((0 : Int) < 3 ∧ |(1 : Int) - 0| ≤ 3 - 0 ∧ ((0 : Nat) : Int) ≤ 3 - 0 ∧ ((3 : Nat) : Int) ≤ 3 - 0) ∧
    ((0 : Int) < 4 ∧ |(4 : Int) - 0| ≤ 4 - 0) ∧ |(1 : Int) - 0| < |(3 : Int) - 0| := by decide

/-- The least length that draws and the greatest that draws nothing. -/
theorem witness_FastLinesAgreeWithTheGeneralLine : (1 : Int) ≤ 1 ∧ (0 : Int) ≤ 0 := by decide

theorem witness_InverseDrawnTwiceRestoresTheFramebuffer :
    (∃ t u, exec (.fillscreen .inverse) blank = .next t ∧ exec (.fillscreen .inverse) t = .next u) ∧
    (∃ t u, exec (.drawline 0 0 3 1 .inverse) blank = .next t ∧ exec (.drawline 0 0 3 1 .inverse) t = .next u) ∧
    (∃ t u, exec (.drawbitmap 0 0 0 8 8 .inverse .inverse) blank = .next t ∧
      exec (.drawbitmap 0 0 0 8 8 .inverse .inverse) t = .next u) :=
  ⟨⟨_, _, rfl, rfl⟩, ⟨_, _, rfl, rfl⟩, _, _, rfl, rfl⟩

/-- A pixel in the last row and column of the scaled cell, and one just outside. -/
theorem witness_GlyphIsScaledByReplication :
    inRect 0 0 (5 * 2 : Nat) (7 * 2 : Nat) 9 13 ∧ ¬ inRect 0 0 (5 * 2 : Nat) (7 * 2 : Nat) 10 13 := by
  unfold inRect
  decide

theorem witness_DrawcharRendersFont1 : (1 : Byte) ≠ 0 ∧ (255 : Byte) ≠ 0 := by decide

theorem witness_Drawcharfont2RendersFont2 : (1 : Byte) ≠ 0 ∧ (255 : Byte) ≠ 0 := by decide

theorem witness_ZeroScaleIsRefused : (Instr.settextsize 0).wellFormed = false := by decide

theorem witness_SettextsizeSetsTheScale : (1 : Byte) ≠ 0 ∧ (255 : Byte) ≠ 0 := by decide

/-- No wrap from X = 123 and a wrap from X = 124 (V-W5). -/
theorem witness_WriteDrawsTheGlyphAndAdvances :
    (0x41 : Byte) ≠ blank.cfg.newlineCode ∧
    ¬ (blank.wordWrap = true ∧ 128 < (123 : Half).toNat + 5 * blank.textSize.toNat) ∧
    (blank.wordWrap = true ∧ 128 < (124 : Half).toNat + 5 * blank.textSize.toNat) := by decide

/-- The largest scale whose glyph fits the width. -/
theorem witness_WordWrapBreaksBeforeTheBoundary :
    (0x41 : Byte) ≠ blank.cfg.newlineCode ∧ blank.wordWrap = true ∧ 5 * (25 : Byte).toNat ≤ 128 ∧
    ∃ t, exec (.write 0x41) { blank with textSize := 25, curX := 4 } = .next t := ⟨by decide, rfl, by decide, _, rfl⟩

/-- The byte listed at 0x2007, read through an address 2^32 higher. -/
theorem witness_BitmapAddressesWrapAt32Bits : Memory.wf bm ∧ ((0x2007 + 2 ^ 32) % 2 ^ 32, (0x81 : Byte)) ∈ bm := by
  decide +kernel

/-- A pixel in the last row and column of the destination, and one just outside. -/
theorem witness_DrawbitmapCopiesItsBits :
    inRect (0 : Half).toInt (0 : Half).toInt (10 : Half).toInt (2 : Half).toInt 9 1 ∧
    ¬ inRect (0 : Half).toInt (0 : Half).toInt (10 : Half).toInt (2 : Half).toInt 10 1 := by
  unfold inRect
  decide

/-- InitSendsItsFourteenTransfersInOrder, OnSendsDisplayOn and OffSendsDisplayOff: transports that stall at the
transaction after the command's last. -/
theorem witness_Answers :
    ({ blank with transport := List.replicate 65 (some ⟨true, 0⟩) ++ [none] } : State).Answers 65 ∧
    ({ blank with transport := List.replicate 4 (some ⟨false, 1⟩) ++ [none] } : State).Answers 4 := ⟨rfl, rfl⟩

/-- UPDATE with CHUNK = 16 (64 data transfers) and with CHUNK = 1024 (one). -/
theorem witness_UpdateStreamsTheWholeFramebuffer :
    64 = (1024 + blank.cfg.chunk - 1) / blank.cfg.chunk ∧ blank.Answers (12 + 1024 + 3 * 64) ∧
    1 = (1024 + ({ cfg with chunkLess1 := 1023 } : Params).chunk - 1) / ({ cfg with chunkLess1 := 1023 } : Params).chunk ∧
    blank.Answers (12 + 1024 + 3 * 1) := ⟨by decide, rfl, by decide, rfl⟩

/-- A device in an arbitrary addressing mode, its pointers and window anywhere. -/
def device : Device where
  addr := 0x3C
  gddram := Vector.replicate 8 (Vector.replicate 128 0x55)
  cp := 127
  pp := 7
  cs := 3
  ce := 90
  ps := 1
  pe := 2
  mode := 2
  disp := false
  panel := ⟨1, 2, 3, 4, 5, false, false, 6, 7, 8, 9⟩
  rx := .idle
  pending := []

theorem cfg_defaultWire : cfg.DefaultWire := rfl

/-- WindowTransfersResetTheDevicePointers, InitProgramsTheDevice and UpdateMirrorsTheFramebuffer. -/
theorem witness_device_statements :
    cfg.DefaultWire ∧ device.Listening cfg ∧ ({ device with mode := 0 } : Device).Listening cfg :=
  ⟨rfl, ⟨rfl, rfl, rfl⟩, rfl, rfl, rfl⟩

theorem witness_DisplayMirrorsAfterInitAndUpdate :
    blank.cfg.DefaultWire ∧ device.Listening blank.cfg ∧ ∃ s1 s2 s3, exec .init blank = .next s1 ∧
      execAll [.off, .write 0x41] s1 = .next s2 ∧ exec .update s2 = .next s3 :=
  ⟨rfl, ⟨rfl, rfl, rfl⟩, _, _, _, rfl, rfl, rfl⟩

/-- An engine after INIT and OFF, and a device that follows it. -/
def initialized (words : List CmdWord) : State := { asked words with dstate := .off }

/-- The clause on UPDATE, and the clause on every other step. -/
theorem witness_EveryStepKeepsTheDeviceFollowing :
    ({ device with mode := 0 } : Device).Follows (initialized [0x02]) ∧
    ({ device with mode := 0 } : Device).Follows (initialized [0x03]) ∧
    (initialized [0x02]).inputs = .command 0x02 :: [] ∧ decode 0x02 = .ok .update ∧
    (initialized [0x03]).inputs = .command 0x03 :: [] ∧ decode 0x03 ≠ .ok .update ∧
    (initialized [0x02]).inputs.head? ≠ some .reset ∧ (initialized [0x03]).inputs.head? ≠ some .reset ∧
    (∃ t, step (initialized [0x02]) = .next t) ∧ (∃ t, step (initialized [0x03]) = .next t) :=
  ⟨⟨rfl, ⟨rfl, rfl, rfl⟩, rfl, by decide, by decide⟩, ⟨rfl, ⟨rfl, rfl, rfl⟩, rfl, by decide, by decide⟩, rfl,
    by decide +kernel, rfl, by decide +kernel, by decide +kernel, by decide +kernel, ⟨_, rfl⟩, _, rfl⟩

end Sys2Proof.Tests
end

section
/-! Proofs of the statements about the engine's state (10_state): which state elements a command or a step can write. -/

namespace Sys2Proof.Machine

/-! ### What a completed command leaves -/

/-- The commands whose whole effect, where their scale is not 0, is to draw in FB (20_memory R36): WRITE, which also
moves the cursor, is not one of them. -/
def drawsOnly : Instr → Bool
  | .clear | .fillscreen _ | .drawpixel _ _ _ | .drawline _ _ _ _ _ | .drawfastvline _ _ _ _
  | .drawfasthline _ _ _ _ | .fillrect _ _ _ _ _ | .drawchar _ _ _ _ _ _ | .drawcharfont2 _ _ _ _ _ _
  | .drawbitmap _ _ _ _ _ _ _ => true
  | _ => false

/-- The state a completed command leaves, by the kind of the command: each kind writes its own fields and no others. -/
inductive ExecEffect (s : State) : Instr → State → Prop
  | sent {i : Instr} (h : usesBus i = true) :
      ExecEffect s i (complete 0 { s.afterBus (commandEvents i s) with dstate := dstateAfter i s.dstate })
  | drew {i : Instr} (f : Framebuffer → Framebuffer) (h : drawsOnly i = true) : ExecEffect s i (draw f s)
  | refused {i : Instr} (h : i.wellFormed = false) : ExecEffect s i (raiseIllegal .zeroScale s)
  | located (x y : Half) : ExecEffect s (.setlocation x y) (complete 0 { s with curX := x, curY := y })
  | scaled {n : Byte} (h : n ≠ 0) : ExecEffect s (.settextsize n) (complete 0 { s with textSize := n })
  | wrote (c : Byte) (fb : Framebuffer) (x y : Half) :
      ExecEffect s (.write c) (complete 1 { s with fb := fb, curX := x, curY := y })

theorem drawGlyph_effect {i : Instr} {size : Byte} (hd : drawsOnly i = true) (hw : i.wellFormed = (size != 0))
    (g : GlyphPixels) (gw gh : Nat) (x y : Half) (c : Byte) (color bg : Colour) (s : State) :
    ExecEffect s i (drawGlyph g gw gh x y c color bg size s) := by
  unfold drawGlyph
  split
  · next h0 => exact .refused (by simp [hw, h0])
  · exact .drew _ hd

theorem exec_effect {i : Instr} {s t : State} (h : exec i s = .next t) : ExecEffect s i t := by
  have sent (hb : usesBus i = true) : ExecEffect s i t := (exec_bus_next hb h).2 ▸ .sent hb
  cases i with
  | init | update | on | off => exact sent rfl
  | clear | fillscreen | drawpixel | drawline | drawfastvline | drawfasthline | fillrect | drawbitmap =>
    cases h; exact .drew _ rfl
  | setlocation x y => cases h; exact .located x y
  | settextsize n =>
    cases h
    split
    · next h0 => exact .refused (by simp [Instr.wellFormed, h0])
    · next h0 => exact .scaled h0
  | drawchar | drawcharfont2 => cases h; exact drawGlyph_effect rfl rfl ..
  | write c =>
    obtain ⟨fb, x, y, hw⟩ := write_text c s
    cases h
    rw [hw]
    exact .wrote c fb x y

/-- The fields that no command writes (10_state R17, R19, 20_memory R38). -/
theorem exec_frame {i : Instr} {s t : State} (h : exec i s = .next t) :
    t.wordWrap = s.wordWrap ∧ t.cfg = s.cfg ∧ t.bm = s.bm ∧ t.inputs = s.inputs ∧ t.resets = s.resets := by
  cases hb : usesBus i with
  | true =>
    obtain ⟨-, rfl⟩ := exec_bus_next hb h
    exact ⟨rfl, rfl, rfl, rfl, rfl⟩
  | false =>
    have q := exec_quiet_next hb h
    exact ⟨q.wordWrap, q.cfg, q.bm, q.inputs, q.resets⟩

theorem dstateAfter_of_quiet {i : Instr} (h : usesBus i = false) (d : DState) : dstateAfter i d = d := by
  cases i with
  | init | on | off | update => cases h
  | _ => rfl

theorem exec_dstate {i : Instr} {s t : State} (h : exec i s = .next t) : t.dstate = dstateAfter i s.dstate := by
  cases hb : usesBus i with
  | true =>
    obtain ⟨-, rfl⟩ := exec_bus_next hb h
    rfl
  | false => rw [dstateAfter_of_quiet hb, (exec_quiet_next hb h).dstate]

/-! ### The transfers of a command -/

theorem transfersOf_of_quiet {i : Instr} (h : usesBus i = false) (s : State) : transfersOf i s = [] := by
  cases i with
  | init | on | off | update => cases h
  | _ => rfl

/-- Every command extends the stream by its transactions: none, for a command that does not use the bus. -/
theorem exec_bus_append {i : Instr} {s t : State} (h : exec i s = .next t) : t.bus = s.bus ++ commandEvents i s := by
  cases hb : usesBus i with
  | true =>
    obtain ⟨-, rfl⟩ := exec_bus_next hb h
    rfl
  | false =>
    rw [(exec_quiet_next hb h).bus, commandEvents_eq, transfersOf_of_quiet hb, busEvents_nil, List.append_nil]

/-- UPDATE apart, the transfers of a command are made from the parameters alone. -/
theorem transfersOf_fb {i : Instr} (h : i ≠ .update) (s : State) (fb : Framebuffer) :
    transfersOf i { s with fb := fb } = transfersOf i s := by
  cases i with
  | update => exact absurd rfl h
  | _ => rfl

/-- A transfer as State.WellBracketed asks for it: at least one payload byte after a control code of the two. -/
def Transfer.Proper (p : Params) (t : Transfer) : Prop :=
  t.payload ≠ [] ∧ (t.ctrl = p.ctrlCmd ∨ t.ctrl = p.ctrlData)

theorem commandTransfer_proper (p : Params) (b : Byte) (args : List Byte) :
    (commandTransfer p (b :: args)).Proper p := ⟨List.cons_ne_nil b args, .inl rfl⟩

theorem dataTransfers_proper {p : Params} {fb : Framebuffer} {fuel a : Nat} {t : Transfer}
    (h : t ∈ dataTransfers p fb fuel a) : t.Proper p := by
  obtain ⟨hctrl, hpos, -⟩ := dataTransfers_mem h
  exact ⟨List.ne_nil_of_length_pos hpos, .inr hctrl⟩

theorem initTransfers_proper (p : Params) : ∀ t ∈ initTransfers p, t.Proper p := by
  simp [initTransfers, commandTransfer_proper]

theorem windowTransfers_proper (p : Params) : ∀ t ∈ windowTransfers p, t.Proper p := by
  simp [windowTransfers, commandTransfer_proper]

theorem updateTransfers_proper (p : Params) (fb : Framebuffer) : ∀ t ∈ updateTransfers p fb, t.Proper p :=
  List.forall_mem_append.mpr ⟨windowTransfers_proper p, fun _ => dataTransfers_proper⟩

theorem transfersOf_proper (i : Instr) (s : State) : ∀ t ∈ transfersOf i s, t.Proper s.cfg := by
  cases i with
  | init => exact initTransfers_proper s.cfg
  | update => exact updateTransfers_proper s.cfg s.fb
  | on | off => exact List.forall_mem_singleton.mpr (commandTransfer_proper ..)
  | _ => exact List.forall_mem_nil _

/-! ### What a step can do -/

/-- The state a step leaves, by the input it takes. -/
inductive StepEffect (s : State) : State → Prop
  | idle (hin : s.inputs = []) : StepEffect s s
  | executed {w : CmdWord} {rest : List Input} {i : Instr} {t : State} (hin : s.inputs = .command w :: rest)
      (hd : decode w = .ok i) (he : exec i { s with inputs := rest } = .next t) : StepEffect s t
  | refused {w : CmdWord} {rest : List Input} {code : IllegalCode} (hin : s.inputs = .command w :: rest)
      (hd : decode w = .error code) : StepEffect s (raiseIllegal code { s with inputs := rest })
  | environment {a : BitVec 32} {b : Byte} {rest : List Input} (hin : s.inputs = .bitmapWrite a b :: rest) :
      StepEffect s (environmentWrite a b { s with inputs := rest })
  | reset {rest : List Input} (hin : s.inputs = .reset :: rest) :
      StepEffect s (State.resetNow { s with inputs := rest })

theorem step_effect {s t : State} (h : step s = .next t) : StepEffect s t := by
  unfold step at h
  split at h
  · next hin => cases h; exact .idle hin
  · next w rest hin =>
    unfold acceptWord at h
    split at h
    · next i hd => exact .executed hin hd h
    · next code hd => cases h; exact .refused hin hd
  · next hin => cases h; exact .environment hin
  · next hin => cases h; exact .reset hin

/-! ### The invariant -/

theorem State.WellBracketed.append {s t : State} (h : s.WellBracketed) {ts : List Transfer} (hcfg : t.cfg = s.cfg)
    (hbus : t.bus = s.bus ++ busEvents s.cfg.devAddr ts) (hts : ∀ u ∈ ts, u.Proper s.cfg) : t.WellBracketed := by
  obtain ⟨us, hus, hproper⟩ := h
  refine ⟨us ++ ts, by rw [hbus, hus, hcfg, busEvents_append], ?_⟩
  rw [hcfg]
  exact List.forall_mem_append.mpr ⟨hproper, hts⟩

/-- SETTEXTSIZE 0 is refused, and no other command writes textSize (10_state R16). -/
theorem exec_keeps_textSize_ne_zero {i : Instr} {s t : State} (hs : s.textSize ≠ 0) (h : exec i s = .next t) :
    t.textSize ≠ 0 := by
  cases exec_effect h with
  | scaled hn => exact hn
  | sent | drew | refused | located | wrote => exact hs

theorem exec_keeps_inv {i : Instr} {s t : State} (hs : s.Inv) (h : exec i s = .next t) : t.Inv := by
  obtain ⟨hsize, hwf, hbus⟩ := hs
  obtain ⟨-, hcfg, hbm, -, -⟩ := exec_frame h
  exact ⟨exec_keeps_textSize_ne_zero hsize h, hbm ▸ hwf,
    hbus.append hcfg (exec_bus_append h) (transfersOf_proper i s)⟩

theorem environmentWrite_keeps_inv {s : State} (hs : s.Inv) (a : BitVec 32) (b : Byte) :
    (environmentWrite a b s).Inv := by
  obtain ⟨hsize, hwf, hbus⟩ := hs
  exact ⟨hsize, Memory.wf_write hwf a.isLt, hbus⟩

/-- A reset sets textSize to 1 and empties the stream; BM it does not touch (70_reset R171). -/
theorem State.resetNow_keeps_inv {s : State} (hs : s.Inv) : s.resetNow.Inv := by
  obtain ⟨-, hwf, -⟩ := hs
  exact ⟨by simp, by simpa using hwf, [], by simp, List.forall_mem_nil _⟩

/-- Settles O21: each kind of step keeps the invariant, which does not look at the input that the step takes. -/
theorem stepKeepsTheInvariant : Obligations.StepKeepsTheInvariant := by
  intro s t hs h
  have hrest (rest : List Input) : ({ s with inputs := rest } : State).Inv := hs
  cases step_effect h with
  | idle => exact hs
  | executed _ _ he => exact exec_keeps_inv (hrest _) he
  | refused => exact hs
  | environment => exact environmentWrite_keeps_inv (hrest _) _ _
  | reset => exact State.resetNow_keeps_inv (hrest _)

/-! ### Which command writes what -/

/-- Settles O15: of the kinds of effect only `drew` and `wrote` write FB, and only UPDATE's transfers are made from it. -/
theorem nonDrawingCommandsKeepTheFramebuffer : Obligations.NonDrawingCommandsKeepTheFramebuffer := by
  intro i s t h
  refine ⟨fun hi => ?_, fun hi fb => ?_⟩
  · cases exec_effect h with
    | sent | refused | located | scaled => rfl
    | drew f hd => rcases hi with rfl | rfl | rfl | rfl | ⟨x, y, rfl⟩ | ⟨n, rfl⟩ <;> cases hd
    | wrote => simp at hi
  · rw [commandEvents_eq, commandEvents_eq, transfersOf_fb hi]

/-- Settles O16: only `located` and `wrote` write the cursor, only `scaled` writes textSize, and the other fields named
are written by no command. -/
theorem textStateWriters : Obligations.TextStateWriters := by
  intro i s t h
  refine ⟨fun hwrite hloc => ?_, fun hsize => ?_, exec_frame h⟩
  · cases exec_effect h with
    | located x y => exact absurd ⟨x, y, rfl⟩ hloc
    | wrote c => exact absurd ⟨c, rfl⟩ hwrite
    | sent | drew | refused | scaled => exact ⟨rfl, rfl⟩
  · cases exec_effect h with
    | scaled => exact absurd ⟨_, rfl⟩ hsize
    | sent | drew | refused | located | wrote => rfl

theorem DState.bits_ne_three (d : DState) : d.bits ≠ 3 := by cases d <;> decide

/-- Settles O17: DSTATE after a command is `dstateAfter` of DSTATE before it, and its type has no code 3. -/
theorem displayStateTransitions : Obligations.DisplayStateTransitions := by
  intro i s t h
  refine ⟨?_, ?_, ?_, fun h1 h2 h3 => ?_, t.dstate.bits_ne_three⟩
  · rintro rfl; exact exec_dstate h
  · rintro rfl; exact exec_dstate h
  · rintro rfl; exact exec_dstate h
  · simpa [dstateAfter, h1, h2, h3] using exec_dstate h

end Sys2Proof.Machine
end

section
/-! Proofs of the statements about the memory spaces and the bus (20_memory): reads and writes of BM, the transactions
of a command, and how little a command depends on the transport's answers. -/

namespace Sys2Proof.Machine

/-! ### The bitmap memory -/

theorem bmRead_write_same (m : Memory) {a : Nat} (v : Byte) (ha : a < 2 ^ 32) : bmRead (Memory.write m a v) a = v :=
  bmRead_of_listed (by rw [Nat.mod_eq_of_lt ha, Memory.listed_write_same])

theorem bmRead_write_other (m : Memory) {a x : Nat} (v : Byte) (h : x % 2 ^ 32 ≠ a) :
    bmRead (Memory.write m a v) x = bmRead m x := by
  rw [bmRead, bmRead, Memory.listed_write_other m v h]

/-- Settles O48: only the residue of an address is looked up, and in canonical form the look-up finds what is listed. -/
theorem bitmapAddressesWrapAt32Bits : Obligations.BitmapAddressesWrapAt32Bits := by
  intro m a
  refine ⟨(bmRead_mod m a).symm, ?_, fun b hwf hmem => bmRead_of_listed (Memory.listed_of_mem hwf hmem)⟩
  calc bmRead m (a + 2 ^ 32)
      = bmRead m ((a + 2 ^ 32) % 2 ^ 32) := (bmRead_mod m _).symm
    _ = bmRead m (a % 2 ^ 32) := by rw [Nat.add_mod_right]
    _ = bmRead m a := bmRead_mod m a

theorem step_bitmapWrite {s : State} {a : BitVec 32} {b : Byte} {rest : List Input}
    (h : s.inputs = .bitmapWrite a b :: rest) :
    step s = .next (environmentWrite a b { s with inputs := rest }) := by
  simp only [step, h]

/-- Settles O13: the step is the write to BM's list of the byte at an address below 2^32. -/
theorem environmentWriteChangesOneBitmapByte : Obligations.EnvironmentWriteChangesOneBitmapByte := by
  intro s a b rest h
  exact ⟨_, step_bitmapWrite h, rfl, fun hwf => ⟨Memory.wf_write hwf a.isLt, bmRead_write_same s.bm b a.isLt,
    fun x hx => bmRead_write_other s.bm b hx⟩⟩

/-! ### The commands that use the bus -/

theorem usesBus_iff {i : Instr} : usesBus i = true ↔ i = .init ∨ i = .update ∨ i = .on ∨ i = .off := by
  cases i <;> simp [usesBus]

theorem transfersOf_ne_nil {i : Instr} (h : usesBus i = true) (s : State) : transfersOf i s ≠ [] := by
  rcases usesBus_iff.mp h with rfl | rfl | rfl | rfl
  all_goals exact List.cons_ne_nil _ _

theorem busEvents_ne_nil {addr : BitVec 7} {ts : List Transfer} (h : ts ≠ []) : busEvents addr ts ≠ [] := by
  obtain ⟨t, us, rfl⟩ := List.exists_cons_of_ne_nil h
  exact List.cons_ne_nil _ _

/-- Settles O14: a command that does not use the bus is quiet, and one that does sends a transfer. -/
theorem onlyBusCommandsAppendToTheStream : Obligations.OnlyBusCommandsAppendToTheStream := by
  intro i s t h
  refine ⟨fun ⟨hinit, hupdate, hon, hoff⟩ => ?_, fun hi => ?_⟩
  · have hquiet : usesBus i = false := by
      simp [← Bool.not_eq_true, usesBus_iff, hinit, hupdate, hon, hoff]
    have q := exec_quiet_next hquiet h
    exact ⟨q.bus, q.transport, q.drawn, q.busFail⟩
  · exact ⟨exec_bus_append h, busEvents_ne_nil (transfersOf_ne_nil (usesBus_iff.mpr hi) s)⟩

/-! ### Another script of answers -/

/-- The state with another script, and another position in the free answers (log 7). -/
def State.withScript (answers : List (Option BusAnswer)) (n : Nat) (s : State) : State :=
  { s with transport := answers, drawn := n }

section
variable (answers : List (Option BusAnswer)) (n : Nat)

@[simp] theorem State.withScript_cfg (s : State) : (s.withScript answers n).cfg = s.cfg := rfl

theorem commandEvents_withScript (i : Instr) (s : State) :
    commandEvents i (s.withScript answers n) = commandEvents i s := by
  cases i <;> rfl

theorem drawGlyph_withScript (g : GlyphPixels) (gw gh : Nat) (x y : Half) (c : Byte) (color bg : Colour) (size : Byte)
    (s : State) : drawGlyph g gw gh x y c color bg size (s.withScript answers n) =
      (drawGlyph g gw gh x y c color bg size s).withScript answers n := by
  unfold drawGlyph
  split <;> rfl

theorem wrapCursor_withScript (s : State) :
    wrapCursor (s.withScript answers n) = (wrapCursor s).withScript answers n :=
  (apply_ite (State.withScript answers n) (wrapsBefore s = true) (writeNewline s) s).symm

/-- A command that does not use the bus neither reads the script nor moves in it. -/
theorem exec_withScript_of_quiet {i : Instr} {s t : State} (hb : usesBus i = false) (h : exec i s = .next t) :
    exec i (s.withScript answers n) = .next (t.withScript answers n) := by
  cases i with
  | init | update | on | off => cases hb
  | clear | fillscreen | setlocation | drawpixel | drawline | drawfastvline | drawfasthline | fillrect | drawbitmap =>
    cases h; rfl
  | settextsize size =>
    cases h
    simp only [exec, execSettextsize]
    split <;> rfl
  | drawchar | drawcharfont2 => cases h; exact congrArg _ (drawGlyph_withScript ..)
  | write c =>
    cases h
    have hglyph : writeGlyph c (wrapCursor (s.withScript answers n)) =
        (writeGlyph c (wrapCursor s)).withScript answers n := by
      rw [wrapCursor_withScript]; rfl
    simp only [exec, execWrite, State.withScript_cfg, hglyph]
    split <;> rfl

end

/-- Settles O19: a command on the bus sends the same transactions under both scripts, and the answers enter its end
state in BUSFAIL and the response alone; any other command ends in the same state with the other script in it. -/
theorem effectsDoNotDependOnTheAnswers : Obligations.EffectsDoNotDependOnTheAnswers := by
  intro i s t u answers n ht (hu : exec i (s.withScript answers n) = .next u)
  cases hb : usesBus i with
  | true =>
    obtain ⟨-, rfl⟩ := exec_bus_next hb ht
    obtain ⟨-, rfl⟩ := exec_bus_next hb hu
    rw [commandEvents_withScript]
    rfl
  | false =>
    cases hu.symm.trans (exec_withScript_of_quiet answers n hb ht)
    rfl

end Sys2Proof.Machine
end

section
/-! Proofs of the statements about command words (30_encoding): the decoder and the encoder are inverse to each other,
the opcode table and the order of the refusals, the serialized word, and the response word of a step. -/

namespace Sys2Proof

/-! ### Operand checks -/

theorem bind_eq_ok {α β : Type} {x : Except IllegalCode α} {g : α → Except IllegalCode β} {b : β} :
    x.bind g = .ok b ↔ ∃ a, x = .ok a ∧ g a = .ok b := by
  cases x <;> simp [Except.bind]

@[simp] theorem colourField_bits (c : Colour) : colourField c.bits = .ok c := by
  simp [colourField]

theorem colourField_eq_ok {v : BitVec 2} {c : Colour} : colourField v = .ok c ↔ v = c.bits := by
  constructor
  · intro h
    unfold colourField at h
    split at h
    · next d hd => cases h; exact (Colour.bits_of_ofBits hd).symm
    · cases h
  · rintro rfl
    exact colourField_bits c

@[simp] theorem colourField_three : colourField 3#2 = .error .reservedColour := rfl

/-- Every code but 3 is a colour (30_encoding R54). -/
theorem exists_bits_of_ne_three {v : BitVec 2} (h : v ≠ 3) : ∃ c : Colour, v = c.bits := by
  have codes : ∀ v : BitVec 2, v ≠ 3 → v = Colour.off.bits ∨ v = Colour.on.bits ∨ v = Colour.inverse.bits := by decide
  rcases codes v h with hv | hv | hv
  · exact ⟨_, hv⟩
  · exact ⟨_, hv⟩
  · exact ⟨_, hv⟩

theorem scaleField_zero : scaleField 0 = .error .zeroScale := rfl

theorem scaleField_of_ne_zero {n : Byte} (h : n ≠ 0) : scaleField n = .ok n := if_neg h

theorem scaleField_eq_ok {v n : Byte} : scaleField v = .ok n ↔ v = n ∧ n ≠ 0 := by
  constructor
  · intro h
    unfold scaleField at h
    split at h
    · cases h
    · next h0 => cases h; exact ⟨rfl, h0⟩
  · rintro ⟨rfl, h⟩
    exact scaleField_of_ne_zero h

@[simp] theorem byteField_lowByte (v : Half) : byteField (lowByte v) = v &&& 0x00FF#16 := by
  have mask : ∀ k < 16, BitVec.getLsbD 0x00FF#16 k = decide (k < 8) := by decide
  apply BitVec.eq_of_getLsbD_eq
  intro k hk
  rw [BitVec.getLsbD_and, mask k hk]
  simp [byteField, lowByte, hk, Bool.and_comm]

/-! ### The bits that a format uses -/

/-- The fields with every bit cleared that is not in `u`; OP stays. -/
def Fields.keep (f u : Fields) : Fields where
  op    := f.op
  color := f.color &&& u.color
  bg    := f.bg &&& u.bg
  rsv0  := f.rsv0 &&& u.rsv0
  a0    := f.a0 &&& u.a0
  a1    := f.a1 &&& u.a1
  a2    := f.a2 &&& u.a2
  a3    := f.a3 &&& u.a3
  rsv1  := f.rsv1 &&& u.rsv1
  base  := f.base &&& u.base

/-- `Fields.unusedZero` as the conjunction of its conditions. -/
theorem Fields.unusedZero_iff {f u : Fields} : f.unusedZero u = true ↔
    f.color &&& ~~~u.color = 0 ∧ f.bg &&& ~~~u.bg = 0 ∧ f.rsv0 = 0 ∧ f.rsv1 = 0 ∧ f.a0 &&& ~~~u.a0 = 0 ∧
      f.a1 &&& ~~~u.a1 = 0 ∧ f.a2 &&& ~~~u.a2 = 0 ∧ f.a3 &&& ~~~u.a3 = 0 ∧ f.base &&& ~~~u.base = 0 := by
  simp only [Fields.unusedZero, Bool.and_eq_true, beq_iff_eq, and_assoc]

theorem and_eq_self_of_and_not_eq_zero {n : Nat} {x y : BitVec n} (h : x &&& ~~~y = 0) : x &&& y = x := by
  calc x &&& y = x &&& y ||| x &&& ~~~y := by simp [h]
    _ = x := by rw [← BitVec.and_or_distrib_left, BitVec.or_not_self, BitVec.and_allOnes]

theorem Fields.keep_of_unusedZero {f u : Fields} (h : f.unusedZero u = true) : f.keep u = f := by
  obtain ⟨hcolor, hbg, hrsv0, hrsv1, ha0, ha1, ha2, ha3, hbase⟩ := Fields.unusedZero_iff.mp h
  obtain ⟨op, color, bg, rsv0, a0, a1, a2, a3, rsv1, base⟩ := f
  simp_all [Fields.keep, and_eq_self_of_and_not_eq_zero]

/-! ### The operands of an operation -/

/-- What a command's fields hold, read back, is the command (30_encoding R53, R54, R59). -/
theorem operands_fields {i : Instr} (h : i.wellFormed = true) : i.opcode.operands i.fields = .ok i := by
  have scale {n : Byte} (hn : (n != 0) = true) : scaleField n = .ok n := scaleField_of_ne_zero (bne_iff_ne.mp hn)
  cases i with
  | init | update | on | off | clear | setlocation => rfl
  | fillscreen | drawpixel | drawline | drawfastvline | drawfasthline | fillrect | drawbitmap =>
    simp [Instr.opcode, Opcode.operands, Instr.fields, Except.bind]
  | write => simp [Instr.opcode, Opcode.operands, Instr.fields]
  | settextsize | drawchar | drawcharfont2 =>
    simp [Instr.opcode, Opcode.operands, Instr.fields, Except.bind, scale h]

/-- The word of every command has its OP, and zero in every bit that its format does not use. -/
theorem fields_of_row (i : Instr) :
    i.fields.op = i.opcode.byte ∧ i.fields.unusedZero i.opcode.format.used = true := by
  have row : Laws.RowBits.Statement i := by
    cases i with
    | init => exact Laws.RowBits.init
    | update => exact Laws.RowBits.update
    | on => exact Laws.RowBits.on
    | off => exact Laws.RowBits.off
    | clear => exact Laws.RowBits.clear
    | fillscreen => exact Laws.RowBits.fillscreen ..
    | setlocation => exact Laws.RowBits.setlocation ..
    | settextsize => exact Laws.RowBits.settextsize ..
    | drawpixel => exact Laws.RowBits.drawpixel ..
    | drawline => exact Laws.RowBits.drawline ..
    | drawfastvline => exact Laws.RowBits.drawfastvline ..
    | drawfasthline => exact Laws.RowBits.drawfasthline ..
    | fillrect => exact Laws.RowBits.fillrect ..
    | drawchar => exact Laws.RowBits.drawchar ..
    | drawcharfont2 => exact Laws.RowBits.drawcharfont2 ..
    | write => exact Laws.RowBits.write ..
    | drawbitmap => exact Laws.RowBits.drawbitmap ..
  simpa [Laws.RowBits.Statement, encode] using row

@[simp] theorem and_three (v : BitVec 2) : v &&& 3#2 = v := BitVec.and_allOnes

@[simp] theorem and_FFFF (v : Half) : v &&& 0xFFFF#16 = v := BitVec.and_allOnes

@[simp] theorem and_FFFFFFFF (v : BitVec 32) : v &&& 0xFFFFFFFF#32 = v := BitVec.and_allOnes

/-- A command read from fields is well formed, of the operation it was read as, and its own fields are the ones read, in
the bits that the format uses. -/
theorem operands_eq_ok {o : Opcode} {f : Fields} {i : Instr} (hop : o.byte = f.op) (h : o.operands f = .ok i) :
    i.opcode = o ∧ i.wellFormed = true ∧ i.fields = f.keep o.format.used := by
  cases o with
  | init | update | on | off | clear | setlocation | write =>
    cases h
    refine ⟨rfl, rfl, ?_⟩
    simp [Instr.opcode, Instr.fields, Fields.keep, Opcode.format, Format.used, Fields.zero, hop]
  | fillscreen | drawpixel | drawline | drawfastvline | drawfasthline | fillrect =>
    simp only [Opcode.operands, bind_eq_ok, colourField_eq_ok, Except.ok.injEq] at h
    obtain ⟨c, hc, rfl⟩ := h
    refine ⟨rfl, rfl, ?_⟩
    simp [Instr.opcode, Instr.fields, Fields.keep, Opcode.format, Format.used, Fields.zero, hop, hc]
  | settextsize =>
    simp only [Opcode.operands, bind_eq_ok, scaleField_eq_ok, Except.ok.injEq] at h
    obtain ⟨n, ⟨rfl, hn⟩, rfl⟩ := h
    refine ⟨rfl, bne_iff_ne.mpr hn, ?_⟩
    simp [Instr.opcode, Instr.fields, Fields.keep, Opcode.format, Format.used, Fields.zero, hop]
  | drawchar | drawcharfont2 =>
    simp only [Opcode.operands, bind_eq_ok, colourField_eq_ok, scaleField_eq_ok, Except.ok.injEq] at h
    obtain ⟨c, hc, b, hb, n, ⟨rfl, hn⟩, rfl⟩ := h
    refine ⟨rfl, bne_iff_ne.mpr hn, ?_⟩
    simp [Instr.opcode, Instr.fields, Fields.keep, Opcode.format, Format.used, Fields.zero, hop, hc, hb]
  | drawbitmap =>
    simp only [Opcode.operands, bind_eq_ok, colourField_eq_ok, Except.ok.injEq] at h
    obtain ⟨c, hc, b, hb, rfl⟩ := h
    refine ⟨rfl, rfl, ?_⟩
    simp [Instr.opcode, Instr.fields, Fields.keep, Opcode.format, Format.used, Fields.zero, hop, hc, hb]

/-! ### Decoder and encoder -/

theorem decode_of_no_op {w : CmdWord} (h : ∀ o : Opcode, o.byte ≠ (Fields.ofWord w).op) :
    decode w = .error .reservedOp := by
  simp only [decode, Opcode.ofByte_eq_none.mpr h]

theorem decode_of_op {w : CmdWord} {o : Opcode} (h : o.byte = (Fields.ofWord w).op) :
    decode w = if (Fields.ofWord w).unusedZero o.format.used then o.operands (Fields.ofWord w)
      else .error .reservedField := by
  simp only [decode, ← h, Opcode.ofByte_byte]

theorem decode_eq_ok {w : CmdWord} {i : Instr} (h : decode w = .ok i) :
    ∃ o : Opcode, o.byte = (Fields.ofWord w).op ∧ (Fields.ofWord w).unusedZero o.format.used = true ∧
      o.operands (Fields.ofWord w) = .ok i := by
  by_cases hop : ∃ o : Opcode, o.byte = (Fields.ofWord w).op
  · obtain ⟨o, ho⟩ := hop
    rw [decode_of_op ho] at h
    split at h
    · next hu => exact ⟨o, ho, hu, h⟩
    · cases h
  · rw [decode_of_no_op (not_exists.mp hop)] at h
    cases h

/-- Settles O2: the word's fields are the command's, which pass the checks of its row and are read back as they were
written. -/
theorem decodeOfEncodeIsTheCommand : Obligations.DecodeOfEncodeIsTheCommand := by
  intro i hi
  obtain ⟨hop, hunused⟩ := fields_of_row i
  have hf : Fields.ofWord (encode i) = i.fields := Fields.ofWord_toWord i.fields
  rw [decode_of_op (hf ▸ hop.symm), hf, if_pos hunused, operands_fields hi]

/-- Settles O3: the command's fields are the word's in the bits that the format uses, and the others are zero. -/
theorem acceptedWordIsEncodingOfItsCommand : Obligations.AcceptedWordIsEncodingOfItsCommand := by
  intro w i h
  obtain ⟨o, hop, hunused, hread⟩ := decode_eq_ok h
  obtain ⟨-, hwf, hfields⟩ := operands_eq_ok hop hread
  refine ⟨hwf, ?_⟩
  calc encode i = ((Fields.ofWord w).keep o.format.used).toWord := congrArg Fields.toWord hfields
    _ = (Fields.ofWord w).toWord := by rw [Fields.keep_of_unusedZero hunused]
    _ = w := Fields.toWord_ofWord w

/-! ### The order of the refusals -/

/-- A colour field that the operation's format uses holds the reserved code (30_encoding R58, code 3). -/
def Opcode.BadColour (o : Opcode) (f : Fields) : Prop :=
  (o.format.used.color ≠ 0 ∧ f.color = 3) ∨ (o.format.used.bg ≠ 0 ∧ f.bg = 3)

/-- The operation's scale is zero (30_encoding R58, code 4). -/
def Opcode.BadScale (o : Opcode) (f : Fields) : Prop :=
  (o = .settextsize ∧ lowByte f.a0 = 0) ∨ ((o = .drawchar ∨ o = .drawcharfont2) ∧ lowByte f.a3 = 0)

theorem Opcode.exists_color {o : Opcode} {f : Fields} (h : ¬ o.BadColour f) (hu : o.format.used.color ≠ 0) :
    ∃ c : Colour, f.color = c.bits := exists_bits_of_ne_three fun h3 => h (.inl ⟨hu, h3⟩)

theorem Opcode.exists_bg {o : Opcode} {f : Fields} (h : ¬ o.BadColour f) (hu : o.format.used.bg ≠ 0) :
    ∃ c : Colour, f.bg = c.bits := exists_bits_of_ne_three fun h3 => h (.inr ⟨hu, h3⟩)

/-- The second colour is checked where the first one passes, with the same refusal. -/
theorem colourField_bind_colourField {α : Type} {u v : BitVec 2} (g : Colour → Colour → Except IllegalCode α)
    (h : u = 3 ∨ v = 3) :
    ((colourField u).bind fun c => (colourField v).bind (g c)) = .error .reservedColour := by
  by_cases hu : u = 3
  · subst hu; rfl
  · obtain ⟨c, rfl⟩ := exists_bits_of_ne_three hu
    obtain rfl : v = 3 := h.resolve_left hu
    rw [colourField_bits]; rfl

theorem operands_of_badColour {o : Opcode} {f : Fields} (h : o.BadColour f) :
    o.operands f = .error .reservedColour := by
  cases o with
  | init | update | on | off | clear | setlocation | settextsize | write =>
    simp [Opcode.BadColour, Opcode.format, Format.used, Fields.zero] at h
  | fillscreen | drawpixel | drawline | drawfastvline | drawfasthline | fillrect =>
    have h3 : f.color = 3#2 := by simpa [Opcode.BadColour, Opcode.format, Format.used, Fields.zero] using h
    simp [Opcode.operands, h3, Except.bind]
  | drawchar | drawcharfont2 | drawbitmap =>
    exact colourField_bind_colourField _ (by simpa [Opcode.BadColour, Opcode.format, Format.used, Fields.zero] using h)

theorem operands_of_badScale {o : Opcode} {f : Fields} (hc : ¬ o.BadColour f) (hs : o.BadScale f) :
    o.operands f = .error .zeroScale := by
  rcases hs with ⟨rfl, h0⟩ | ⟨rfl | rfl, h0⟩
  · simp only [Opcode.operands, h0, scaleField_zero, Except.bind]
  all_goals
    obtain ⟨c, hcolor⟩ := Opcode.exists_color hc (by decide)
    obtain ⟨b, hbg⟩ := Opcode.exists_bg hc (by decide)
    simp only [Opcode.operands, hcolor, hbg, colourField_bits, h0, scaleField_zero, Except.bind]

theorem operands_of_valid {o : Opcode} {f : Fields} (hc : ¬ o.BadColour f) (hs : ¬ o.BadScale f) :
    ∃ i, o.operands f = .ok i ∧ i.opcode = o := by
  cases o with
  | init | update | on | off | clear | setlocation | write => exact ⟨_, rfl, rfl⟩
  | fillscreen | drawpixel | drawline | drawfastvline | drawfasthline | fillrect =>
    obtain ⟨c, hcolor⟩ := Opcode.exists_color hc (by decide)
    simp only [Opcode.operands, hcolor, colourField_bits]
    exact ⟨_, rfl, rfl⟩
  | settextsize =>
    have hn : lowByte f.a0 ≠ 0 := fun h0 => hs (.inl ⟨rfl, h0⟩)
    simp only [Opcode.operands, scaleField_of_ne_zero hn]
    exact ⟨_, rfl, rfl⟩
  | drawchar | drawcharfont2 =>
    obtain ⟨c, hcolor⟩ := Opcode.exists_color hc (by decide)
    obtain ⟨b, hbg⟩ := Opcode.exists_bg hc (by decide)
    have hn : lowByte f.a3 ≠ 0 := fun h0 => hs (.inr ⟨by decide, h0⟩)
    simp only [Opcode.operands, hcolor, hbg, colourField_bits, scaleField_of_ne_zero hn]
    exact ⟨_, rfl, rfl⟩
  | drawbitmap =>
    obtain ⟨c, hcolor⟩ := Opcode.exists_color hc (by decide)
    obtain ⟨b, hbg⟩ := Opcode.exists_bg hc (by decide)
    simp only [Opcode.operands, hcolor, hbg, colourField_bits]
    exact ⟨_, rfl, rfl⟩

/-! ### The opcode table -/

theorem Opcode.byte_injective : Function.Injective Opcode.byte := fun o p h => by
  simpa using congrArg Opcode.ofByte h

theorem Fields.ofWord_injective : Function.Injective Fields.ofWord :=
  Function.LeftInverse.injective Fields.toWord_ofWord

theorem extractLsb'_not {n : Nat} (x : BitVec n) {k len : Nat} (h : k + len ≤ n) :
    (~~~x).extractLsb' k len = ~~~(x.extractLsb' k len) := by
  apply BitVec.eq_of_getLsbD_eq
  intro i hi
  have hn : k + i < n := by omega
  simp [hi, hn]

theorem extractLsb'_of_le {n : Nat} (x : BitVec n) {k len : Nat} (h : n ≤ k) : x.extractLsb' k len = 0 := by
  apply BitVec.eq_of_getLsbD_eq
  intro i hi
  simp [hi, BitVec.getLsbD_of_ge x (k + i) (by omega)]

theorem and_not_of_eq_zero {n : Nat} (x : BitVec n) {u : BitVec n} (h : u = 0) : x &&& ~~~u = x := by
  simp [h]

/-- Clearing a word's bits clears them field by field. -/
theorem Fields.ofWord_and_not (w : CmdWord) (u : Fields) :
    Fields.ofWord (w &&& ~~~u.toWord) =
      { op    := (Fields.ofWord w).op &&& ~~~u.op
        color := (Fields.ofWord w).color &&& ~~~u.color
        bg    := (Fields.ofWord w).bg &&& ~~~u.bg
        rsv0  := (Fields.ofWord w).rsv0 &&& ~~~u.rsv0
        a0    := (Fields.ofWord w).a0 &&& ~~~u.a0
        a1    := (Fields.ofWord w).a1 &&& ~~~u.a1
        a2    := (Fields.ofWord w).a2 &&& ~~~u.a2
        a3    := (Fields.ofWord w).a3 &&& ~~~u.a3
        rsv1  := (Fields.ofWord w).rsv1 &&& ~~~u.rsv1
        base  := (Fields.ofWord w).base &&& ~~~u.base } := by
  conv_rhs => rw [← Fields.ofWord_toWord u]
  simp [Fields.ofWord, BitVec.extractLsb'_and, extractLsb'_not]

theorem Fields.ofWord_byte (b : Byte) : Fields.ofWord (b.zeroExtend 128) = { Fields.zero with op := b } := by
  simp [Fields.ofWord, Fields.zero, BitVec.extractLsb'_setWidth_of_le, extractLsb'_of_le]

theorem Format.used_reserved (t : Format) : t.used.op = 0 ∧ t.used.rsv0 = 0 ∧ t.used.rsv1 = 0 := by
  cases t <;> decide

theorem opcodeTable_mem (o : Opcode) : ∃ r ∈ opcodeTable, r.opcode = o := by
  have rows : ∀ o ∈ Opcode.all, ∃ r ∈ opcodeTable, r.opcode = o := by decide
  exact rows o (Opcode.mem_all o)

theorem opcodeTable_row : ∀ r ∈ opcodeTable,
    r.mask = ~~~ r.opcode.format.used.toWord ∧ r.matchBits = r.opcode.byte.zeroExtend 128 := by
  decide +kernel

/-- A row admits the words of its OP whose bits are zero where its format does not use them. -/
theorem admits_iff {r : OpcodeRow} (hr : r ∈ opcodeTable) (w : CmdWord) : r.admits w = true ↔
    r.opcode.byte = (Fields.ofWord w).op ∧ (Fields.ofWord w).unusedZero r.opcode.format.used = true := by
  obtain ⟨hmask, hmatch⟩ := opcodeTable_row r hr
  obtain ⟨hop, hrsv0, hrsv1⟩ := r.opcode.format.used_reserved
  rw [OpcodeRow.admits, beq_iff_eq, hmask, hmatch, ← Fields.ofWord_injective.eq_iff, Fields.ofWord_and_not,
    Fields.ofWord_byte, Fields.unusedZero_iff]
  simp only [Fields.mk.injEq, Fields.zero, and_not_of_eq_zero _ hop, and_not_of_eq_zero _ hrsv0,
    and_not_of_eq_zero _ hrsv1]
  tauto

theorem opcodeTable_opcode_injective {r q : OpcodeRow} (hr : r ∈ opcodeTable) (hq : q ∈ opcodeTable)
    (h : r.opcode = q.opcode) : r = q :=
  List.inj_on_of_nodup_map (f := OpcodeRow.opcode) (by decide) hr hq h

/-- Settles O4: a row admits a word iff the word has its OP and zero in the bits that its format does not use, which are
the decoder's first two tests. -/
theorem decoderFollowsMatchAndMask : Obligations.DecoderFollowsMatchAndMask := by
  refine ⟨opcodeTable_mem, opcodeTable_row, fun w r hr q hq hrw hqw => ?_, fun w r hr hrw => ?_, fun w hnone => ?_⟩
  · obtain ⟨hrop, -⟩ := (admits_iff hr w).mp hrw
    obtain ⟨hqop, -⟩ := (admits_iff hq w).mp hqw
    exact opcodeTable_opcode_injective hr hq (Opcode.byte_injective (hrop.trans hqop.symm))
  · obtain ⟨hop, hunused⟩ := (admits_iff hr w).mp hrw
    rw [decode_of_op hop, if_pos hunused]
    by_cases hc : r.opcode.BadColour (Fields.ofWord w)
    · exact .inr (.inl (operands_of_badColour hc))
    by_cases hs : r.opcode.BadScale (Fields.ofWord w)
    · exact .inr (.inr (operands_of_badScale hc hs))
    · exact .inl (operands_of_valid hc hs)
  · by_cases hop : ∃ o : Opcode, o.byte = (Fields.ofWord w).op
    · obtain ⟨o, ho⟩ := hop
      obtain ⟨r, hr, rfl⟩ := opcodeTable_mem o
      have hunused : ¬ (Fields.ofWord w).unusedZero r.opcode.format.used = true := fun hu =>
        Bool.false_ne_true ((hnone r hr).symm.trans ((admits_iff hr w).mpr ⟨ho, hu⟩))
      exact .inr (by rw [decode_of_op ho, if_neg hunused])
    · exact .inl (decode_of_no_op (not_exists.mp hop))

/-- Settles O1: the decoder is evaluated at each word. -/
theorem specWordsDecodeAsListed : Obligations.SpecWordsDecodeAsListed := by
  unfold Obligations.SpecWordsDecodeAsListed
  decide +kernel

/-! ### The serialized word -/

theorem littleEndian_append (as bs : List Byte) :
    littleEndian (as ++ bs) = littleEndian as + 256 ^ as.length * littleEndian bs := by
  induction as with
  | nil => simp [littleEndian]
  | cons a as ih =>
    simp only [List.cons_append, littleEndian, ih, List.length_cons]
    ring

/-- The first n bytes of a word carry its low 8n bits. -/
theorem littleEndian_range (w : CmdWord) (n : Nat) :
    littleEndian ((List.range n).map fun k => w.extractLsb' (8 * k) 8) = w.toNat % 256 ^ n := by
  induction n with
  | zero => simp [littleEndian, Nat.mod_one]
  | succ n ih =>
    have hbyte : (w.extractLsb' (8 * n) 8).toNat = w.toNat / 256 ^ n % 256 := by
      rw [BitVec.extractLsb'_toNat, Nat.shiftRight_eq_div_pow, Nat.pow_mul]
    rw [List.range_succ, List.map_append, littleEndian_append, ih, Nat.mod_pow_succ]
    simp [littleEndian, hbyte]

theorem ofBytes_toBytes (w : CmdWord) : CmdWord.ofBytes (CmdWord.toBytes w) = some w := by
  have hnum : littleEndian (CmdWord.toBytes w) = w.toNat := by
    rw [CmdWord.toBytes, littleEndian_range]
    exact Nat.mod_eq_of_lt w.isLt
  rw [CmdWord.ofBytes, if_pos (by simp [CmdWord.toBytes]), hnum, BitVec.ofNat_toNat, BitVec.setWidth_eq]

/-- Settles O6: the number that the sixteen bytes stand for is the word's, by induction on the number of bytes. -/
theorem serializedWordIsLittleEndian : Obligations.SerializedWordIsLittleEndian := by
  intro w
  have hget (k : Nat) (hk : k < 16) : (CmdWord.toBytes w)[k]? = some (w.extractLsb' (8 * k) 8) := by
    simp [CmdWord.toBytes, hk]
  exact ⟨by simp [CmdWord.toBytes], hget, hget 0 (by decide), ofBytes_toBytes w,
    congrArg (Option.map decode) (ofBytes_toBytes w)⟩

end Sys2Proof

namespace Sys2Proof.Machine

/-! ### The response word -/

/-- The fields of a response word are what it was built from (30_encoding R55). -/
theorem responseWord_fields (ret : BitVec 16) (err : BitVec 4) (s : State) :
    (responseWord ret err s).extractLsb' 0 16 = ret ∧
    (responseWord ret err s).extractLsb' 16 4 = err ∧
    (responseWord ret err s).extractLsb' 20 1 = BitVec.ofBool s.status.illegal ∧
    (responseWord ret err s).extractLsb' 21 1 = BitVec.ofBool s.status.busFail ∧
    (responseWord ret err s).extractLsb' 22 2 = s.dstate.bits ∧
    (responseWord ret err s).extractLsb' 24 8 = 0 := by
  have appended (z : BitVec 8) (d : BitVec 2) (b i : BitVec 1) (e : BitVec 4) (r : BitVec 16) :
      (z ++ d ++ (b ++ i) ++ e ++ r).extractLsb' 0 16 = r ∧ (z ++ d ++ (b ++ i) ++ e ++ r).extractLsb' 16 4 = e ∧
      (z ++ d ++ (b ++ i) ++ e ++ r).extractLsb' 20 1 = i ∧ (z ++ d ++ (b ++ i) ++ e ++ r).extractLsb' 21 1 = b ∧
      (z ++ d ++ (b ++ i) ++ e ++ r).extractLsb' 22 2 = d ∧ (z ++ d ++ (b ++ i) ++ e ++ r).extractLsb' 24 8 = z := by
    refine ⟨BitVec.extractLsb'_append_eq_right, ?_, ?_, ?_, ?_, ?_⟩
    · rw [BitVec.extractLsb'_append_eq_of_le (by decide)]
      exact BitVec.extractLsb'_append_eq_right
    · iterate 2 rw [BitVec.extractLsb'_append_eq_of_le (by decide)]
      rw [BitVec.extractLsb'_append_eq_of_add_le (by decide)]
      exact BitVec.extractLsb'_append_eq_right
    · iterate 2 rw [BitVec.extractLsb'_append_eq_of_le (by decide)]
      rw [BitVec.extractLsb'_append_eq_of_add_le (by decide)]
      exact BitVec.extractLsb'_append_eq_left
    · iterate 3 rw [BitVec.extractLsb'_append_eq_of_le (by decide)]
      exact BitVec.extractLsb'_append_eq_right
    · iterate 3 rw [BitVec.extractLsb'_append_eq_of_le (by decide)]
      exact BitVec.extractLsb'_append_eq_left
  exact appended ..

/-! ### Steps on a command word -/

theorem step_decoded {s : State} {w : CmdWord} {i : Instr} {rest : List Input}
    (hin : s.inputs = .command w :: rest) (hd : decode w = .ok i) : step s = exec i { s with inputs := rest } := by
  simp only [step, hin, acceptWord, hd]

/-- Settles O7: the first input is the word, and the word is accepted. -/
theorem stepRunsTheDecodedCommand : Obligations.StepRunsTheDecodedCommand := fun _ _ _ _ => step_decoded

theorem step_refused {s : State} {w : CmdWord} {rest : List Input} {code : IllegalCode}
    (hin : s.inputs = .command w :: rest) (hd : decode w = .error code) :
    step s = .next (raiseIllegal code { s with inputs := rest }) := by
  simp only [step, hin, acceptWord, hd]

/-- The decoder makes the tests of R58 in their order, after that of OP. -/
theorem decode_first_code {w : CmdWord} {o : Opcode} (hop : o.byte = (Fields.ofWord w).op) :
    ((Fields.ofWord w).unusedZero o.format.used = false → decode w = .error .reservedField) ∧
    ((Fields.ofWord w).unusedZero o.format.used = true → o.BadColour (Fields.ofWord w) →
      decode w = .error .reservedColour) ∧
    ((Fields.ofWord w).unusedZero o.format.used = true → ¬ o.BadColour (Fields.ofWord w) →
      o.BadScale (Fields.ofWord w) → decode w = .error .zeroScale) ∧
    ((Fields.ofWord w).unusedZero o.format.used = true → ¬ o.BadColour (Fields.ofWord w) →
      ¬ o.BadScale (Fields.ofWord w) → ∃ i, decode w = .ok i ∧ i.opcode = o) := by
  rw [decode_of_op hop]
  refine ⟨fun hu => ?_, fun hu hc => ?_, fun hu hc hs => ?_, fun hu hc hs => ?_⟩
  · rw [hu]; rfl
  · rw [if_pos hu, operands_of_badColour hc]
  · rw [if_pos hu, operands_of_badScale hc hs]
  · rw [if_pos hu]; exact operands_of_valid hc hs

/-- Settles O5: the decoder's tests stand in the order of R58, and a step on a refused word is `raiseIllegal`. -/
theorem refusalCodeIsTheFirstThatApplies : Obligations.RefusalCodeIsTheFirstThatApplies := by
  refine ⟨?_, fun s w rest code hin hd => ?_⟩
  · rintro w f rfl
    refine ⟨decode_of_no_op, fun o hop => ?_⟩
    intro u unused badColour badScale
    have hunused : unused ↔ (Fields.ofWord w).unusedZero o.format.used = false := by
      rw [← Bool.not_eq_true, Fields.unusedZero_iff]
      simp only [not_and_or]
      rfl
    rw [hunused, Bool.not_eq_false]
    exact decode_first_code hop
  · obtain ⟨hret, herr, -⟩ := responseWord_fields 0 code.bits ({ s with inputs := rest } : State).setIllegal
    exact ⟨_, _, step_refused hin hd, rfl, hret, herr, fun v j more hrest hv =>
      step_decoded (s := raiseIllegal code { s with inputs := rest }) hrest hv⟩

/-! ### The answer of a command -/

/-- A scale of 0 that reaches exec is refused as the decoder refuses it (log 14). -/
theorem exec_of_illFormed {i : Instr} (h : i.wellFormed = false) (s : State) :
    exec i s = .next (raiseIllegal .zeroScale s) := by
  cases i with
  | settextsize n | drawchar _ _ _ _ _ n | drawcharfont2 _ _ _ _ _ n =>
    obtain rfl : n = 0 := by simpa [Instr.wellFormed] using h
    rfl
  | _ => cases h

/-- Settles O41: exec of an ill-formed command is `raiseIllegal` with code 4. -/
theorem zeroScaleIsRefused : Obligations.ZeroScaleIsRefused := by
  intro i s h
  obtain ⟨hret, herr, -⟩ := responseWord_fields 0 4 s.setIllegal
  exact ⟨_, hret, herr, exec_of_illFormed h s⟩

/-- RET of a command that was executed (30_encoding R55). -/
def returnValue : Instr → BitVec 16
  | .write _ => 1
  | _ => 0

theorem returnValue_of_usesBus {i : Instr} (h : usesBus i = true) : returnValue i = 0 := by
  rcases usesBus_iff.mp h with rfl | rfl | rfl | rfl
  all_goals rfl

theorem returnValue_of_drawsOnly {i : Instr} (h : drawsOnly i = true) : returnValue i = 0 := by
  cases i with
  | write => cases h
  | _ => rfl

/-- An executed command appends one response, with RET its return value, ERR 0, and the flags it leaves. -/
theorem exec_response {i : Instr} {s t : State} (hwf : i.wellFormed = true) (h : exec i s = .next t) :
    t.responses = s.responses ++ [responseWord (returnValue i) 0 t] := by
  cases exec_effect h with
  | sent hb => rw [returnValue_of_usesBus hb]; rfl
  | drew f hd => rw [returnValue_of_drawsOnly hd]; rfl
  | refused hill => rw [hwf] at hill; cases hill
  | located | scaled | wrote => rfl

/-- Settles O10: the step executes the command or refuses the word, and appends one `responseWord` of the state it
leaves. -/
theorem eachCommandAnswersOneResponseWord : Obligations.EachCommandAnswersOneResponseWord := by
  intro s t w rest hin h
  cases hd : decode w with
  | ok i =>
    rw [step_decoded hin hd] at h
    obtain ⟨hwf, -⟩ := acceptedWordIsEncodingOfItsCommand w i hd
    obtain ⟨-, -, -, hinputs, -⟩ := exec_frame h
    have hresponse := exec_response hwf h
    obtain ⟨hret, hrest⟩ := responseWord_fields (returnValue i) 0 t
    exact ⟨hinputs, _, hresponse, hret.trans (by cases i <;> rfl), hrest⟩
  | error code =>
    rw [step_refused hin hd] at h
    cases h
    exact ⟨rfl, _, rfl, responseWord_fields ..⟩

end Sys2Proof.Machine
end

section
/-! Proofs of the statements about pixels and fills (40_pixel_fill): PutPixel by bytes and by bits, and the three
commands DRAWPIXEL, FILLSCREEN and CLEAR. -/

namespace Sys2Proof.Machine

/-! ### Drawing, and what it paints -/

theorem drewOnly_draw (f : Framebuffer → Framebuffer) (s : State) : DrewOnly 0 s (draw f s) := rfl

/-- OFF covers whatever was painted before it on the same pixels. -/
theorem PaintsExactly.then_off {c : Colour} {painted : Nat → Nat → Prop} {fb fc fd : Framebuffer}
    (hfirst : PaintsExactly c painted fb fc) (hoff : PaintsExactly .off painted fc fd) :
    PaintsExactly .off painted fb fd := by
  intro px py hx hy
  obtain ⟨-, hkeep⟩ := hfirst px py hx hy
  obtain ⟨hpaint', hkeep'⟩ := hoff px py hx hy
  exact ⟨hpaint', fun h => (hkeep' h).trans (hkeep h)⟩

/-! ### PutPixel -/

theorem putPixel_paintsExactly (x y : Int) (c : Colour) (fb : Framebuffer) :
    PaintsExactly c (fun px py => x = px ∧ y = py) fb (putPixel x y c fb) := by
  intro px py hx hy
  exact ⟨fun h => putPixel_acts c hx hy h fb, fun h => putPixel_misses c hx hy h fb⟩

/-- PutPixel writes no byte but that of a pixel on the screen. -/
theorem read_putPixel_other {x y : Int} {a : Nat}
    (h : ¬ (onScreen x y = true ∧ a = pixelAddr x.toNat y.toNat)) (c : Colour) (fb : Framebuffer) :
    (putPixel x y c fb).read a = fb.read a := by
  cases hon : onScreen x y with
  | false => rw [putPixel_offScreen x y c fb hon]
  | true =>
    have ha : pixelAddr x.toNat y.toNat ≠ a := fun e => h ⟨hon, e.symm⟩
    rw [putPixel_onScreen x y c fb hon, Framebuffer.read_write_other _ _ ha]

/-- PutPixel changes the byte of its pixel as R70 changes one bit of a byte. -/
theorem read_putPixel_same {x y : Int} (h : onScreen x y = true) (c : Colour) (fb : Framebuffer) :
    (putPixel x y c fb).read (pixelAddr x.toNat y.toNat) =
      paintBit c (y.toNat % 8) (fb.read (pixelAddr x.toNat y.toNat)) := by
  obtain ⟨-, hx, -, hy⟩ := (onScreen_iff x y).mp h
  have ha : pixelAddr x.toNat y.toNat < fbSize :=
    pixelAddr_lt (show x.toNat < 128 by omega) (show y.toNat < 64 by omega)
  rw [putPixel_onScreen x y c fb h, Framebuffer.read_write_same _ _ ha]

/-- Settles O23: the byte at the pixel's address has one bit painted, and no other byte is written. -/
theorem putPixelWritesOneBitOrNothing : Obligations.PutPixelWritesOneBitOrNothing := by
  intro x y c fb
  refine ⟨fun hoff => putPixel_offScreen x y c fb ?_, fun hx0 hx hy0 hy => ⟨fun k hk => ?_, fun a _ ha => ?_⟩⟩
  · rw [← Bool.not_eq_true, onScreen_iff]
    omega
  · have hon := (onScreen_iff x y).mpr ⟨hx0, hx, hy0, hy⟩
    have hbyte := read_putPixel_same hon c fb
    simp only [pixelAddr] at hbyte
    rw [hbyte, getLsbD_paintBit _ _ _ _ hk]
    cases c <;> rfl
  · exact read_putPixel_other (fun h => ha h.2) c fb

/-! ### DRAWPIXEL -/

theorem exec_drawpixel (x y : Half) (c : Colour) (s : State) :
    exec (.drawpixel x y c) s = .next (draw (putPixel x.toInt y.toInt c) s) := rfl

/-- Settles O24: DRAWPIXEL draws with PutPixel. -/
theorem drawpixelPaintsItsPixel : Obligations.DrawpixelPaintsItsPixel := by
  intro x y c s
  exact ⟨_, exec_drawpixel x y c s, drewOnly_draw _ s, putPixel_paintsExactly _ _ c s.fb,
    fun a _ ha => read_putPixel_other ha c s.fb⟩

/-- Settles O25: OFF covers the ON before it, and off the screen neither writes. -/
theorem drawpixelOnThenOffRoundTrip : Obligations.DrawpixelOnThenOffRoundTrip := by
  intro x y s t u hon hoff
  rw [exec_drawpixel] at hon hoff
  cases hon
  cases hoff
  refine ⟨(putPixel_paintsExactly _ _ .on s.fb).then_off (putPixel_paintsExactly _ _ .off _), fun h => ?_⟩
  calc putPixel x.toInt y.toInt .off (putPixel x.toInt y.toInt .on s.fb)
      = putPixel x.toInt y.toInt .on s.fb := putPixel_offScreen _ _ _ _ h
    _ = s.fb := putPixel_offScreen _ _ _ _ h

/-! ### FILLSCREEN and CLEAR -/

theorem exec_fillscreen (c : Colour) (s : State) :
    exec (.fillscreen c) s = .next (draw (Framebuffer.mapBytes (paintByte c)) s) := rfl

theorem mapBytes_paintByte_paintsExactly (c : Colour) (fb : Framebuffer) :
    PaintsExactly c (fun _ _ => True) fb (fb.mapBytes (paintByte c)) := by
  intro px py hx hy
  exact ⟨fun _ => pixel_mapBytes_paintByte c fb hx hy, fun h => absurd trivial h⟩

/-- Settles O26: FILLSCREEN paints byte by byte. -/
theorem fillscreenPaintsEveryByte : Obligations.FillscreenPaintsEveryByte := by
  intro c s
  refine ⟨_, exec_fillscreen c s, drewOnly_draw _ s, fun a ha => ?_, mapBytes_paintByte_paintsExactly c s.fb⟩
  rw [draw_fb, Framebuffer.read_mapBytes _ _ ha]
  cases c <;> rfl

theorem exec_clear_eq_fillscreen_off (s : State) : exec .clear s = exec (.fillscreen .off) s := rfl

/-- Settles O27: CLEAR is FILLSCREEN OFF, which fills FB with `0x00`. -/
theorem clearZeroesTheFramebuffer : Obligations.ClearZeroesTheFramebuffer := by
  intro s
  obtain ⟨t, hexec, hframe, hzero, -⟩ := fillscreenPaintsEveryByte .off s
  exact ⟨t, (exec_clear_eq_fillscreen_off s).trans hexec, hframe, hzero, hexec⟩

end Sys2Proof.Machine
end

section
/-! Proofs of the statements about the rasterizer (41_raster): the fast lines, rectangles and their equivalences, and the
positions of the general line. -/

namespace Sys2Proof.Machine

/-! ### What a drawing operation paints -/

theorem PaintsExactly.congr {c : Colour} {p q : Nat → Nat → Prop} {fb fc : Framebuffer}
    (hp : PaintsExactly c p fb fc) (h : ∀ px py, q px py ↔ p px py) : PaintsExactly c q fb fc := by
  intro px py hx hy
  rw [h]
  exact hp px py hx hy

/-- Painting the same pixels of the screen in the same colour has one outcome only. -/
theorem PaintsExactly.unique {c : Colour} {p q : Nat → Nat → Prop} {fb fc fd : Framebuffer}
    (hp : PaintsExactly c p fb fc) (hq : PaintsExactly c q fb fd)
    (h : ∀ px py, px < screenW → py < screenH → (p px py ↔ q px py)) : fc = fd := by
  refine ext_pixel fun px py hx hy => ?_
  obtain ⟨hpaint, hkeep⟩ := hp px py hx hy
  obtain ⟨hpaint', hkeep'⟩ := hq px py hx hy
  by_cases hon : p px py
  · rw [hpaint hon, hpaint' ((h px py hx hy).mp hon)]
  · rw [hkeep hon, hkeep' fun hq => hon ((h px py hx hy).mpr hq)]

theorem PaintsExactly.eq_of_none {c : Colour} {p : Nat → Nat → Prop} {fb fc : Framebuffer}
    (hp : PaintsExactly c p fb fc) (h : ∀ px py, ¬ p px py) : fc = fb :=
  ext_pixel fun px py hx hy => (hp px py hx hy).2 (h px py)

theorem hline_paintsExactly (x y w : Int) (c : Colour) (fb : Framebuffer) :
    PaintsExactly c (onHline x y w) fb (hline x y w c fb) := fun _ _ hx hy =>
  ⟨fun h => hline_acts c hx hy h fb, fun h => hline_misses c hx hy h fb⟩

theorem vline_paintsExactly (x y h : Int) (c : Colour) (fb : Framebuffer) :
    PaintsExactly c (onVline x y h) fb (vline x y h c fb) := fun _ _ hx hy =>
  ⟨fun hon => vline_acts c hx hy hon fb, fun hon => vline_misses c hx hy hon fb⟩

theorem rect_paintsExactly (x y w h : Int) (c : Colour) (fb : Framebuffer) :
    PaintsExactly c (inRect x y w h) fb (rect x y w h c fb) := fun _ _ hx hy =>
  ⟨fun hin => rect_acts c hx hy hin fb, fun hin => rect_misses c hx hy hin fb⟩

/-- A list of positions without repeats paints its positions on the screen, each once. -/
theorem plot_paintsExactly {ps : List (Int × Int)} (hd : ps.Nodup) (c : Colour) (fb : Framebuffer) :
    PaintsExactly c (fun px py => ((px : Int), (py : Int)) ∈ ps) fb (plot ps c fb) := fun _ _ hx hy =>
  ⟨fun h => plot_acts c hx hy hd h fb, fun h => plot_misses c hx hy h fb⟩

theorem hline_of_nonpos {w : Int} (hw : w ≤ 0) (x y : Int) (c : Colour) (fb : Framebuffer) : hline x y w c fb = fb :=
  (hline_paintsExactly x y w c fb).eq_of_none fun px py => by unfold onHline; omega

theorem vline_of_nonpos {h : Int} (hh : h ≤ 0) (x y : Int) (c : Colour) (fb : Framebuffer) : vline x y h c fb = fb :=
  (vline_paintsExactly x y h c fb).eq_of_none fun px py => by unfold onVline; omega

theorem rect_of_nonpos {w h : Int} (hwh : w ≤ 0 ∨ h ≤ 0) (x y : Int) (c : Colour) (fb : Framebuffer) :
    rect x y w h c fb = fb :=
  (rect_paintsExactly x y w h c fb).eq_of_none fun px py => by unfold inRect; omega

/-! ### DRAWFASTHLINE, DRAWFASTVLINE and FILLRECT -/

theorem exec_drawfasthline (x y w : Half) (c : Colour) (s : State) :
    exec (.drawfasthline x y w c) s = .next (draw (hline x.toInt y.toInt w.toInt c) s) := rfl

theorem exec_drawfastvline (x y h : Half) (c : Colour) (s : State) :
    exec (.drawfastvline x y h c) s = .next (draw (vline x.toInt y.toInt h.toInt c) s) := rfl

theorem exec_fillrect (x y w h : Half) (c : Colour) (s : State) :
    exec (.fillrect x y w h c) s = .next (draw (rect x.toInt y.toInt w.toInt h.toInt c) s) := rfl

/-- Settles O28: DRAWFASTHLINE draws with HLine. -/
theorem drawfasthlinePaintsItsRun : Obligations.DrawfasthlinePaintsItsRun := by
  intro x y w c s
  exact ⟨_, exec_drawfasthline x y w c s, drewOnly_draw _ s,
    (hline_paintsExactly _ _ _ c s.fb).congr fun _ _ => by rw [onHline, eq_comm (b := y.toInt)],
    fun hw => hline_of_nonpos hw _ _ c s.fb⟩

/-- Settles O29: DRAWFASTVLINE draws with VLine. -/
theorem drawfastvlinePaintsItsRun : Obligations.DrawfastvlinePaintsItsRun := by
  intro x y h c s
  exact ⟨_, exec_drawfastvline x y h c s, drewOnly_draw _ s,
    (vline_paintsExactly _ _ _ c s.fb).congr fun _ _ => by rw [onVline, eq_comm (b := x.toInt)],
    fun hh => vline_of_nonpos hh _ _ c s.fb⟩

/-- Settles O30: FILLRECT draws with Rect. -/
theorem fillrectPaintsItsRectangle : Obligations.FillrectPaintsItsRectangle := by
  intro x y w h c s
  exact ⟨_, exec_fillrect x y w h c s, drewOnly_draw _ s, rect_paintsExactly _ _ _ _ c s.fb,
    fun hwh => rect_of_nonpos hwh _ _ c s.fb⟩

/-- Settles O31: both paint every pixel of the screen. -/
theorem fillrectOverTheScreenIsFillscreen : Obligations.FillrectOverTheScreenIsFillscreen := by
  intro x y w h c s hx hy hw hh
  have hfb : rect x.toInt y.toInt w.toInt h.toInt c s.fb = s.fb.mapBytes (paintByte c) := by
    refine (rect_paintsExactly _ _ _ _ c s.fb).unique (mapBytes_paintByte_paintsExactly c s.fb) fun px py hpx hpy => ?_
    unfold screenW at hpx
    unfold screenH at hpy
    exact iff_true_intro ⟨by omega, by omega, by omega, by omega⟩
  rw [exec_fillrect, exec_fillscreen, draw, draw, hfb]

/-! ### The positions of a line along its major axis -/

/-- Neighbours along the loop of Line are one apart on the major axis and at most one on the minor axis. -/
theorem lineSteps_neighbours {dx dy ystep : Int} (hstep : |ystep| ≤ 1) {n : Nat} {x y e : Int} {k : Nat}
    {p q : Int × Int} (hp : (lineSteps dx dy ystep n x y e)[k]? = some p)
    (hq : (lineSteps dx dy ystep n x y e)[k + 1]? = some q) : q.1 = p.1 + 1 ∧ |q.2 - p.2| ≤ 1 := by
  induction n generalizing x y e k with
  | zero => cases hp
  | succ n ih =>
    rw [lineSteps, List.getElem?_cons_succ] at hq
    cases k with
    | succ k =>
      rw [lineSteps, List.getElem?_cons_succ] at hp
      split_ifs at hp hq
      · exact ih hp hq
      · exact ih hp hq
    | zero =>
      cases hp
      cases n with
      | zero => split at hq <;> cases hq
      | succ n =>
        split at hq
        · cases hq; simpa using hstep
        · cases hq; simp

/-- Where the minor axis does not move, the loop of Line emits a level run. -/
theorem lineSteps_level (dx ystep : Int) (n : Nat) (x y : Int) {e : Int} (he : 0 ≤ e) :
    lineSteps dx 0 ystep n x y e = (List.range n).map fun k : Nat => (x + k, y) := by
  induction n generalizing x with
  | zero => rfl
  | succ n ih =>
    rw [lineSteps, if_neg (by omega), sub_zero, ih, List.range_succ_eq_map, List.map_cons, List.map_map]
    simp [Function.comp_def, Int.add_assoc, Int.add_comm 1]

theorem majorPoints_length {x0 x1 : Int} (h : x0 ≤ x1) (y0 y1 : Int) :
    ((majorPoints x0 y0 x1 y1).length : Int) = x1 - x0 + 1 := by
  rw [majorPoints, lineSteps_length, loopCount]
  omega

theorem majorPoints_nodup (x0 y0 x1 y1 : Int) : (majorPoints x0 y0 x1 y1).Nodup := by
  refine List.Nodup.of_map Prod.fst ?_
  rw [majorPoints, lineSteps_fst]
  exact List.nodup_range.map fun j k h => by simpa using h

/-- The k-th position in closed form, the line of one position included. -/
theorem majorPoints_getElem? {x0 y0 x1 y1 : Int} (hx : x0 ≤ x1) (hle : |y1 - y0| ≤ x1 - x0) {k : Nat}
    (hk : (k : Int) ≤ x1 - x0) :
    (majorPoints x0 y0 x1 y1)[k]? =
      some (x0 + k, y0 + (if y0 < y1 then 1 else -1) *
        ((k * |y1 - y0| - (x1 - x0) / 2 + (x1 - x0) - 1) / (x1 - x0))) := by
  rcases hx.lt_or_eq with hlt | rfl
  · exact lineSteps_getElem? (abs_nonneg _) hle (by omega) (by omega) ((loopCount_spec _ _).mpr (by omega))
  · obtain rfl : k = 0 := by omega
    simp [majorPoints, loopCount, lineSteps]

theorem majorPoints_first {x0 y0 x1 y1 : Int} (hx : x0 ≤ x1) : (x0, y0) ∈ majorPoints x0 y0 x1 y1 := by
  obtain ⟨n, hn⟩ : ∃ n, loopCount (x1 - x0 + 1) = n + 1 := ⟨(x1 - x0).toNat, by unfold loopCount; omega⟩
  rw [majorPoints, hn, lineSteps]
  exact List.mem_cons_self

/-- After `dx` steps on the major axis the closed form has gone `dy` steps on the minor axis. -/
theorem minorSteps_last {dx dy : Int} (h0 : 0 ≤ dy) (hle : dy ≤ dx) : (dx * dy - dx / 2 + dx - 1) / dx = dy := by
  rcases (h0.trans hle).lt_or_eq with hpos | rfl
  · have hsplit : dx * dy - dx / 2 + dx - 1 = (dx - dx / 2 - 1) + dx * dy := by ring
    rw [hsplit, Int.add_mul_ediv_left _ _ hpos.ne', Int.ediv_eq_zero_of_lt (by omega) (by omega), zero_add]
  · rw [Int.ediv_zero, le_antisymm hle h0]

theorem majorPoints_last {x0 y0 x1 y1 : Int} (hx : x0 ≤ x1) (hle : |y1 - y0| ≤ x1 - x0) :
    (x1, y1) ∈ majorPoints x0 y0 x1 y1 := by
  have hk : (((x1 - x0).toNat : Nat) : Int) = x1 - x0 := Int.toNat_of_nonneg (by omega)
  refine List.mem_of_getElem? ((majorPoints_getElem? hx hle hk.le).trans ?_)
  have hy : y0 + (if y0 < y1 then 1 else -1) * |y1 - y0| = y1 := by
    split
    · rw [abs_of_pos (by omega)]; omega
    · rw [abs_of_nonpos (by omega)]; omega
  rw [hk, minorSteps_last (abs_nonneg _) hle, hy, add_sub_cancel]

/-- R80 (a), (b) and (c) of a list of positions between two points whose major axis is the first coordinate. -/
structure IsRun (p q : Int × Int) (ps : List (Int × Int)) : Prop where
  length : (ps.length : Int) = |q.1 - p.1| + 1
  nodup : ps.Nodup
  first : p ∈ ps
  last : q ∈ ps
  neighbours : ∀ k a b, ps[k]? = some a → ps[k + 1]? = some b → b.1 = a.1 + 1 ∧ |b.2 - a.2| ≤ 1

theorem IsRun.symm {p q : Int × Int} {ps : List (Int × Int)} (h : IsRun p q ps) : IsRun q p ps :=
  ⟨by rw [h.length, abs_sub_comm], h.nodup, h.last, h.first, h.neighbours⟩

theorem majorPoints_isRun {x0 y0 x1 y1 : Int} (hx : x0 ≤ x1) (hle : |y1 - y0| ≤ x1 - x0) :
    IsRun (x0, y0) (x1, y1) (majorPoints x0 y0 x1 y1) where
  length := by rw [majorPoints_length hx, abs_of_nonneg (by omega)]
  nodup := majorPoints_nodup x0 y0 x1 y1
  first := majorPoints_first hx
  last := majorPoints_last hx hle
  neighbours _ _ _ := lineSteps_neighbours (by split <;> simp)

theorem orderedPoints_isRun {x0 y0 x1 y1 : Int} (hle : |y1 - y0| ≤ |x1 - x0|) :
    IsRun (x0, y0) (x1, y1) (orderedPoints x0 y0 x1 y1) := by
  unfold orderedPoints
  split
  · next hgt =>
    rw [abs_sub_comm, abs_sub_comm x1, abs_of_nonneg (a := x0 - x1) (by omega)] at hle
    exact (majorPoints_isRun hgt.le hle).symm
  · next hgt =>
    rw [abs_of_nonneg (a := x1 - x0) (by omega)] at hle
    exact majorPoints_isRun (by omega) hle

/-- Left to right, the two orders of the end points are one line. -/
theorem orderedPoints_comm {x0 y0 x1 y1 : Int} (hle : |y1 - y0| ≤ |x1 - x0|) :
    orderedPoints x1 y1 x0 y0 = orderedPoints x0 y0 x1 y1 := by
  unfold orderedPoints
  rcases lt_trichotomy x0 x1 with hlt | rfl | hgt
  · rw [if_pos hlt, if_neg hlt.not_gt]
  · rw [sub_self, abs_zero, abs_nonpos_iff, sub_eq_zero] at hle
    rw [hle]
  · rw [if_neg hgt.not_gt, if_pos hgt]

/-! ### The positions of a line -/

theorem linePoints_of_not_steep {x0 y0 x1 y1 : Int} (h : |y1 - y0| ≤ |x1 - x0|) :
    linePoints x0 y0 x1 y1 = orderedPoints x0 y0 x1 y1 := if_neg h.not_gt

/-- A steep line is the line with its axes swapped, each position swapped back. -/
theorem linePoints_of_steep {x0 y0 x1 y1 : Int} (h : |x1 - x0| < |y1 - y0|) :
    linePoints x0 y0 x1 y1 = (linePoints y0 x0 y1 x1).map Prod.swap := by
  rw [linePoints_of_not_steep h.le]
  exact if_pos h

/-- Settles O35: the loop in closed form, and the swap of a steep line. -/
theorem lineErrorTermInClosedForm : Obligations.LineErrorTermInClosedForm := by
  refine ⟨fun x0 y0 x1 y1 k hx hle hk => ?_, fun x0 y0 x1 y1 => linePoints_of_steep⟩
  rw [linePoints_of_not_steep (hle.trans (le_abs_self _)), orderedPoints, if_neg hx.not_gt]
  exact majorPoints_getElem? hx.le hle hk

/-- Settles O33: a line that is not steep is a run, a steep one is a run with its axes swapped. -/
theorem lineHasNoGapsAndBothEnds : Obligations.LineHasNoGapsAndBothEnds := by
  intro x0 y0 x1 y1
  rcases le_or_gt |y1 - y0| |x1 - x0| with hle | hsteep
  · obtain ⟨hlen, hnodup, hfirst, hlast, hnext⟩ := orderedPoints_isRun hle
    simp only [linePoints_of_not_steep hle, max_eq_left hle]
    exact ⟨hlen, hnodup, hfirst, hlast, fun k p q hp hq =>
      ⟨fun _ => hnext k p q hp hq, fun h => absurd hle h.not_ge⟩⟩
  · obtain ⟨hlen, hnodup, hfirst, hlast, hnext⟩ := orderedPoints_isRun hsteep.le
    simp only [linePoints_of_steep hsteep, linePoints_of_not_steep hsteep.le, max_eq_right hsteep.le]
    refine ⟨by rw [List.length_map, hlen], hnodup.map Prod.swap_injective, List.mem_map_of_mem hfirst,
      List.mem_map_of_mem hlast, fun k p q hp hq => ⟨fun h => absurd hsteep h.not_gt, fun _ => ?_⟩⟩
    rw [List.getElem?_map, Option.map_eq_some_iff] at hp hq
    obtain ⟨a, ha, rfl⟩ := hp
    obtain ⟨b, hb, rfl⟩ := hq
    exact hnext k a b ha hb

theorem linePoints_nodup (x0 y0 x1 y1 : Int) : (linePoints x0 y0 x1 y1).Nodup := by
  obtain ⟨-, hnodup, -⟩ := lineHasNoGapsAndBothEnds x0 y0 x1 y1
  exact hnodup

theorem linePoints_length (x0 y0 x1 y1 : Int) :
    ((linePoints x0 y0 x1 y1).length : Int) = max |x1 - x0| |y1 - y0| + 1 := by
  obtain ⟨hlen, -⟩ := lineHasNoGapsAndBothEnds x0 y0 x1 y1
  exact hlen

theorem linePoints_comm_of_not_steep {x0 y0 x1 y1 : Int} (hle : |y1 - y0| ≤ |x1 - x0|) :
    linePoints x1 y1 x0 y0 = linePoints x0 y0 x1 y1 := by
  have hle' : |y0 - y1| ≤ |x0 - x1| := by rwa [abs_sub_comm, abs_sub_comm x0]
  rw [linePoints_of_not_steep hle, linePoints_of_not_steep hle', orderedPoints_comm hle]

/-- Settles O34: after the swap of a steep line both orders of the end points run the same loop. -/
theorem lineIsSymmetricInItsEnds : Obligations.LineIsSymmetricInItsEnds := by
  intro x0 y0 x1 y1
  rcases le_or_gt |y1 - y0| |x1 - x0| with hle | hsteep
  · exact linePoints_comm_of_not_steep hle
  · have hsteep' : |x0 - x1| < |y0 - y1| := by rwa [abs_sub_comm, abs_sub_comm y0]
    rw [linePoints_of_steep hsteep, linePoints_of_steep hsteep', linePoints_comm_of_not_steep hsteep.le]

/-! ### DRAWLINE, and the fast lines as general lines -/

theorem exec_drawline (x0 y0 x1 y1 : Half) (c : Colour) (s : State) :
    exec (.drawline x0 y0 x1 y1 c) s = .next (draw (line x0.toInt y0.toInt x1.toInt y1.toInt c) s) := rfl

/-- Settles O32: DRAWLINE plots the positions of Line, none of them twice. -/
theorem drawlinePaintsItsPoints : Obligations.DrawlinePaintsItsPoints := by
  intro x0 y0 x1 y1 c s
  exact ⟨_, exec_drawline x0 y0 x1 y1 c s, drewOnly_draw _ s, plot_paintsExactly (linePoints_nodup _ _ _ _) c s.fb⟩

/-- A loop of PutPixel plots its positions in order. -/
theorem forLoop_putPixel (pos : Nat → Int × Int) (c : Colour) (n : Nat) (fb : Framebuffer) :
    forLoop (fun k => putPixel (pos k).1 (pos k).2 c) n fb = plot ((List.range n).map pos) c fb := by
  induction n with
  | zero => rfl
  | succ n ih => rw [forLoop, ih, List.range_succ, List.map_append, plot, plot, List.foldl_append]; rfl

theorem hline_eq_plot (x y w : Int) (c : Colour) (fb : Framebuffer) :
    hline x y w c fb = plot ((List.range (loopCount w)).map fun k : Nat => (x + k, y)) c fb :=
  forLoop_putPixel (fun k : Nat => (x + k, y)) c (loopCount w) fb

theorem vline_eq_plot (x y h : Int) (c : Colour) (fb : Framebuffer) :
    vline x y h c fb = plot ((List.range (loopCount h)).map fun k : Nat => (x, y + k)) c fb :=
  forLoop_putPixel (fun k : Nat => (x, y + k)) c (loopCount h) fb

theorem linePoints_horizontal {n : Int} (hn : 1 ≤ n) (x y : Int) :
    linePoints x y (x + n - 1) y = (List.range (loopCount n)).map fun k : Nat => (x + k, y) := by
  have hcount : x + n - 1 - x + 1 = n := by omega
  rw [linePoints_of_not_steep (by simp), orderedPoints, if_neg (by omega), majorPoints, sub_self, abs_zero, hcount]
  exact lineSteps_level _ _ _ _ _ (by omega)

/-- A vertical line is a horizontal one with its axes swapped; the line of one position, which is not steep, is its own
swap. -/
theorem linePoints_vertical {n : Int} (hn : 1 ≤ n) (x y : Int) :
    linePoints x y x (y + n - 1) = (List.range (loopCount n)).map fun k : Nat => (x, y + k) := by
  rcases hn.lt_or_eq with hlt | rfl
  · rw [linePoints_of_steep (by rw [sub_self, abs_zero, abs_pos]; omega), linePoints_horizontal hn, List.map_map]
    rfl
  · have h := linePoints_horizontal le_rfl x y
    simpa [loopCount] using h

/-- Settles O36: for lengths of 1 or more the fast lines plot the positions of the general line, in its order. -/
theorem fastLinesAgreeWithTheGeneralLine : Obligations.FastLinesAgreeWithTheGeneralLine := by
  intro x y n c fb
  refine ⟨fun hn => ⟨?_, ?_⟩, fun hn => ⟨hline_of_nonpos hn x y c fb, vline_of_nonpos hn x y c fb, ?_, ?_⟩⟩
  · rw [hline_eq_plot, line, linePoints_horizontal hn]
  · rw [vline_eq_plot, line, linePoints_vertical hn]
  · rw [linePoints_length, sub_self, abs_zero, max_eq_left (abs_nonneg _), abs_of_nonpos (by omega)]
    omega
  · rw [linePoints_length, sub_self, abs_zero, max_eq_right (abs_nonneg _), abs_of_nonpos (by omega)]
    omega

end Sys2Proof.Machine
end

section
/-! Proofs of the statements about glyphs and text (42_glyph): the two glyph commands, the cursor and the scale, and
WRITE with its word wrap. -/

namespace Sys2Proof.Machine

/-! ### Glyphs -/

/-- In the scaled cell the block of the source pixel is drawn and no other, outside it none. -/
theorem glyph_becomes {g : GlyphPixels} {gw gh : Nat} {x y : Int} {c : Byte} {fg bg : Colour} {s : Nat}
    {fb : Framebuffer} : GlyphBecomes g gw gh x y c fg bg s fb (glyph g gw gh x y c fg bg s fb) := fun _ _ hx hy =>
  ⟨fun hout => glyph_misses hx hy hout fb, fun hin => glyph_acts hx hy hin fb⟩

/-- Settles O38, for every predicate, cell and scale. -/
theorem glyphIsScaledByReplication : Obligations.GlyphIsScaledByReplication := by
  intro g gw gh x y c fg bg s fb
  exact glyph_becomes

/-- FONT1's columns as a list: a column past the fifth has no pixels, as `g1` says. -/
theorem g1_eq_columns (p : Params) :
    g1 p = fun ch i j => ((p.font1[ch.toNat]'ch.isLt).toList.getD i 0).getLsbD j := by
  funext ch i j
  unfold g1
  split
  · next hcolumn => simp [hcolumn]
  · next hpast => simp [hpast]

theorem g2_eq_columns (p : Params) :
    g2 p = fun ch i j => ((p.font2[ch.toNat]'ch.isLt).getD i []).getD j false := by
  funext ch i j
  simp only [g2, List.getD_eq_getElem?_getD]

theorem drawGlyph_of_ne_zero {size : Byte} (h : size ≠ 0) (g : GlyphPixels) (gw gh : Nat) (x y : Half) (c : Byte)
    (fg bg : Colour) (s : State) :
    drawGlyph g gw gh x y c fg bg size s = draw (glyph g gw gh x.toInt y.toInt c fg bg size.toNat) s := if_neg h

theorem exec_drawchar {size : Byte} (h : size ≠ 0) (x y : Half) (c : Byte) (fg bg : Colour) (s : State) :
    exec (.drawchar x y c fg bg size) s =
      .next (draw (glyph (g1 s.cfg) 5 7 x.toInt y.toInt c fg bg size.toNat) s) :=
  congrArg Host.Outcome.next (drawGlyph_of_ne_zero h ..)

theorem exec_drawcharfont2 {size : Byte} (h : size ≠ 0) (x y : Half) (c : Byte) (fg bg : Colour) (s : State) :
    exec (.drawcharfont2 x y c fg bg size) s =
      .next (draw (glyph (g2 s.cfg) s.cfg.f2w s.cfg.f2h x.toInt y.toInt c fg bg size.toNat) s) :=
  congrArg Host.Outcome.next (drawGlyph_of_ne_zero h ..)

/-- Settles O39: DRAWCHAR draws with Glyph over FONT1. -/
theorem drawcharRendersFont1 : Obligations.DrawcharRendersFont1 := by
  intro x y c fg bg size s hsize
  refine ⟨_, exec_drawchar hsize x y c fg bg s, drewOnly_draw _ s, ?_⟩
  rw [← g1_eq_columns]
  exact glyph_becomes

/-- Settles O40: DRAWCHARFONT2 draws with Glyph over FONT2 (its layout is log 16). -/
theorem drawcharfont2RendersFont2 : Obligations.Drawcharfont2RendersFont2 := by
  intro x y c fg bg size s hsize
  refine ⟨_, exec_drawcharfont2 hsize x y c fg bg s, drewOnly_draw _ s, ?_⟩
  rw [← g2_eq_columns]
  exact glyph_becomes

/-! ### The cursor and the scale -/

/-- Settles O42: the command's whole meaning is this update. -/
theorem setlocationSetsTheCursor : Obligations.SetlocationSetsTheCursor := fun _ _ _ => rfl

theorem exec_settextsize {n : Byte} (h : n ≠ 0) (s : State) :
    exec (.settextsize n) s = .next (complete 0 { s with textSize := n }) := congrArg Host.Outcome.next (if_neg h)

/-- Settles O43: a scale other than 0 is not refused. -/
theorem settextsizeSetsTheScale : Obligations.SettextsizeSetsTheScale := fun _ s hn => exec_settextsize hn s

/-! ### WRITE -/

theorem exec_write_newline (s : State) :
    exec (.write s.cfg.newlineCode) s = .next (complete 1 (writeNewline s)) :=
  congrArg (fun t => Host.Outcome.next (complete 1 t)) (if_pos rfl)

theorem exec_write_glyph {c : Byte} {s : State} (h : c ≠ s.cfg.newlineCode) :
    exec (.write c) s = .next (complete 1 (writeGlyph c (wrapCursor s))) :=
  congrArg (fun t => Host.Outcome.next (complete 1 t)) (if_neg h)

/-- The next text row, written as the sum mod 2^16 that a cursor register holds (10_state R15). -/
theorem nextTextRow_eq (s : State) :
    nextTextRow s = BitVec.ofNat 16 ((s.curY.toNat + 7 * s.textSize.toNat) % 2 ^ 16) :=
  BitVec.eq_of_toNat_eq (by simp [nextTextRow, cursorValue, zext16, zext8])

/-- Settles O44: WRITE compares its code with the newline code before it looks at word wrap. -/
theorem writeNewlineMovesTheCursor : Obligations.WriteNewlineMovesTheCursor := by
  intro s
  rw [exec_write_newline, writeNewline, nextTextRow_eq]
  rfl

/-- The test of word wrap (42_glyph R98). -/
theorem wrapsBefore_iff (s : State) :
    wrapsBefore s = true ↔ s.wordWrap = true ∧ 128 < s.curX.toNat + 5 * s.textSize.toNat := by
  rw [wrapsBefore, Bool.and_eq_true, decide_eq_true_iff]
  rfl

/-- Word wrap moves the cursor and writes nothing else. -/
theorem wrapCursor_frame (s : State) :
    wrapCursor s = { s with curX := (wrapCursor s).curX, curY := (wrapCursor s).curY } := by
  unfold wrapCursor
  split
  · rfl
  · rfl

/-- What WRITE of a glyph writes, with the cursor it draws at (42_glyph R98). -/
theorem writeGlyph_wrapCursor (c : Byte) (s : State) :
    writeGlyph c (wrapCursor s) = { s with
      fb := glyph (g1 s.cfg) 5 7 (wrapCursor s).curX.toNat (wrapCursor s).curY.toNat c s.cfg.textFg s.cfg.textBg
        s.textSize.toNat s.fb
      curX := BitVec.ofNat 16 ((wrapCursor s).curX.toNat + 5 * s.textSize.toNat +
        (if s.cfg.gapScaled then s.textSize.toNat else 1))
      curY := (wrapCursor s).curY } := by
  rw [wrapCursor_frame s]
  rfl

/-- Settles O45: the position is the cursor after the wrap. -/
theorem writeDrawsTheGlyphAndAdvances : Obligations.WriteDrawsTheGlyphAndAdvances := by
  intro c s hc ts wraps
  refine ⟨_, (wrapCursor s).curX.toNat, (wrapCursor s).curY.toNat, exec_write_glyph hc, fun hw => ?_, fun hw => ?_,
    ?_, ?_⟩
  · rw [wrapCursor, if_pos ((wrapsBefore_iff s).mpr hw)]
    exact ⟨rfl, by simp [ts, nextTextRow_eq]⟩
  · rw [wrapCursor, if_neg fun h => hw ((wrapsBefore_iff s).mp h)]
    exact ⟨rfl, rfl⟩
  · rw [writeGlyph_wrapCursor, BitVec.ofNat_toNat, BitVec.setWidth_eq]
    rfl
  · rw [writeGlyph_wrapCursor, ← g1_eq_columns]
    exact glyph_becomes

/-- Settles O47: after the wrap the glyph's last column is at most 127, and so far from 2^16 the cursor does not wrap
around. -/
theorem wordWrapBreaksBeforeTheBoundary : Obligations.WordWrapBreaksBeforeTheBoundary := by
  intro c s t hc hwrap hfits h
  obtain ⟨u, x, y, hu, hleft, hstay, hframe, hglyph⟩ := writeDrawsTheGlyphAndAdvances c s hc
  obtain rfl : u = t := Host.Outcome.next.inj (hu.symm.trans h)
  have hx : x + 5 * s.textSize.toNat ≤ 128 := by
    by_cases hw : 128 < s.curX.toNat + 5 * s.textSize.toNat
    · obtain ⟨rfl, -⟩ := hleft ⟨hwrap, hw⟩
      omega
    · obtain ⟨rfl, -⟩ := hstay fun hwraps => hw hwraps.2
      omega
  refine ⟨x, hx, ?_, fun px py hpx hpy hout => (hglyph px py hpx hpy).1 ?_⟩
  · rw [hframe]
    refine (BitVec.toNat_ofNat _ _).trans (Nat.mod_eq_of_lt ?_)
    split <;> omega
  · rintro ⟨h1, h2, -⟩
    omega

/-! ### Strings -/

theorem execAll_cons {i : Instr} {s t : State} (h : exec i s = .next t) (is : List Instr) :
    execAll (i :: is) s = execAll is t := by
  rw [execAll, h]

/-- WRITE always completes, with one response whose RET is 1 (42_glyph R98). -/
theorem exec_write_response (c : Byte) (s : State) :
    ∃ t r, exec (.write c) s = .next t ∧ t.responses = s.responses ++ [r] ∧
      r.extractLsb' 0 16 = (1 : BitVec 16) := by
  obtain ⟨t, h, -⟩ := exec_quiet (i := .write c) rfl s
  obtain ⟨hret, -⟩ := responseWord_fields 1 0 t
  exact ⟨t, _, h, exec_response rfl h, hret⟩

/-- Settles O46, by induction on the string. -/
theorem printCountsItsBytes : Obligations.PrintCountsItsBytes := by
  intro cs
  induction cs with
  | nil => exact fun s => ⟨s, [], rfl, (List.append_nil _).symm, rfl, rfl⟩
  | cons c cs ih =>
    intro s
    obtain ⟨t, r, hexec, hresponse, hret⟩ := exec_write_response c s
    obtain ⟨u, rs, hrest, hresponses, hlength, hsum⟩ := ih t
    refine ⟨u, r :: rs, (execAll_cons hexec _).trans hrest, by simp [hresponses, hresponse], by simp [hlength], ?_⟩
    rw [List.map_cons, List.sum_cons, hret, hsum, List.length_cons, Nat.add_comm]
    rfl

end Sys2Proof.Machine
end

section
/-! Proof of the statement about the blitter (43_blit): the pixels that DRAWBITMAP copies, and their source bits. -/

namespace Sys2Proof.Machine

theorem exec_drawbitmap (x y : Half) (base : BitVec 32) (w h : Half) (fg bg : Colour) (s : State) :
    exec (.drawbitmap x y base w h fg bg) s =
      .next (draw (bitmap s.bm x.toInt y.toInt base.toNat (loopCount w.toInt) (loopCount h.toInt) fg bg) s) := rfl

/-- Loops over a width and a height cover the rectangle of these sizes; where one is not positive, both are empty. -/
theorem inRect_loopCount (x y w h : Int) (px py : Nat) :
    inRect x y (loopCount w) (loopCount h) px py ↔ inRect x y w h px py := by
  unfold inRect loopCount
  omega

/-- A source bit, its byte's address reduced mod 2^32 (43_blit R110, R112 (d)). -/
theorem srcBit_eq (m : Memory) (base w i j : Nat) :
    srcBit m base w i j = (bmRead m ((base + j * ((w + 7) / 8) + i / 8) % 2 ^ 32)).getLsbD (7 - i % 8) := by
  rw [srcBit, rowBytes, bmRead_mod]

/-- Settles O49: one iteration of the copy touches a pixel of the rectangle, with the colour of its source bit, and
none touches another pixel. -/
theorem drawbitmapCopiesItsBits : Obligations.DrawbitmapCopiesItsBits := by
  intro x y base w h fg bg s
  refine ⟨_, exec_drawbitmap x y base w h fg bg s, drewOnly_draw _ s, fun px py hx hy =>
    ⟨fun hout => ?_, fun hin => ?_⟩⟩
  · exact bitmap_misses hx hy (fun e => hout ((inRect_loopCount ..).mp e)) s.fb
  · intro i j rb
    rw [← srcBit_eq s.bm base.toNat w.toInt.toNat i j]
    exact bitmap_acts hx hy ((inRect_loopCount ..).mpr hin) s.fb

end Sys2Proof.Machine
end

section
/-! Proofs of the statements about the display controller (44_display): a bus command whose transactions are answered
completes, and the transfers that INIT, ON, OFF and UPDATE send. -/

namespace Sys2Proof.Machine

/-! ### A bus command that the transport answers -/

/-- Three transactions surround the payload of each transfer: its begin, its control code and its end. -/
theorem busEvents_length (addr : BitVec 7) (ts : List Transfer) :
    (busEvents addr ts).length = (ts.flatMap Transfer.payload).length + 3 * ts.length := by
  induction ts with
  | nil => rfl
  | cons t ts ih =>
    rw [busEvents_cons, List.length_append, events_length, ih, List.flatMap_cons, List.length_append, List.length_cons]
    omega

theorem exec_bus_answered {i : Instr} {s : State} (hb : usesBus i = true)
    (ha : s.Answers (commandEvents i s).length) :
    ∃ t, exec i s = .next t ∧ SentOnly s t ∧ t.dstate = dstateAfter i s.dstate ∧ t.bus = s.bus ++ commandEvents i s :=
  ⟨_, (exec_bus hb s).trans (busCommand_answered ha), rfl, rfl, rfl⟩

/-! ### INIT, ON and OFF -/

/-- Settles O50: `initTransfers` is the list of the statement, and has 65 transactions (44_display R119). -/
theorem initSendsItsFourteenTransfersInOrder : Obligations.InitSendsItsFourteenTransfersInOrder := by
  intro s ha
  have hlength : (commandEvents .init s).length = 65 := busEvents_length ..
  exact exec_bus_answered rfl (hlength ▸ ha)

/-- Settles O51: DISPLAYON is the payload of ON's one transfer. -/
theorem onSendsDisplayOn : Obligations.OnSendsDisplayOn := by
  intro s ha
  exact exec_bus_answered (i := .on) rfl ha

/-- Settles O52: DISPLAYOFF is the payload of OFF's one transfer. -/
theorem offSendsDisplayOff : Obligations.OffSendsDisplayOff := by
  intro s ha
  exact exec_bus_answered (i := .off) rfl ha

/-! ### The data transfers of UPDATE -/

/-- The data transfer that begins at address a (44_display R123, R124). -/
def dataTransferAt (p : Params) (fb : Framebuffer) (a : Nat) : Transfer :=
  ⟨p.ctrlData, fbBytes fb a (min p.chunk (fbSize - a))⟩

theorem dataTransferAt_payload_length (p : Params) (fb : Framebuffer) (a : Nat) :
    (dataTransferAt p fb a).payload.length = min p.chunk (fbSize - a) := by
  simp [dataTransferAt, fbBytes]

theorem dataTransfers_of_lt {a : Nat} (h : a < fbSize) (p : Params) (fb : Framebuffer) (fuel : Nat) :
    dataTransfers p fb (fuel + 1) a =
      dataTransferAt p fb a :: dataTransfers p fb fuel (a + min p.chunk (fbSize - a)) := if_pos h

theorem dataTransfers_of_le {a : Nat} (h : fbSize ≤ a) (p : Params) (fb : Framebuffer) (fuel : Nat) :
    dataTransfers p fb fuel a = [] := by
  cases fuel with
  | zero => rfl
  | succ fuel => exact if_neg (Nat.not_lt.mpr h)

/-- How many transfers of at most CHUNK bytes send the bytes from address a on: ⌈(1024 - a) / CHUNK⌉. -/
def chunkCount (p : Params) (a : Nat) : Nat := (fbSize - a + p.chunk - 1) / p.chunk

theorem chunkCount_of_le {p : Params} {a : Nat} (h : fbSize ≤ a) : chunkCount p a = 0 := by
  have hc := Params.chunk_pos p
  exact Nat.div_eq_of_lt (by omega)

/-- The last transfer may be a short one. -/
theorem chunkCount_of_last {p : Params} {a : Nat} (h : a < fbSize) (hlast : fbSize ≤ a + p.chunk) :
    chunkCount p a = 1 :=
  Nat.div_eq_of_lt_le (by omega) (by omega)

theorem chunkCount_of_not_last {p : Params} {a : Nat} (h : a + p.chunk < fbSize) :
    chunkCount p a = chunkCount p (a + p.chunk) + 1 := by
  rw [chunkCount, chunkCount, ← Nat.add_div_right _ (Params.chunk_pos p)]
  congr 1
  omega

/-- A transfer that is not the last ends within FB. -/
theorem chunk_le_of_lt_chunkCount {p : Params} {k : Nat} (h : k + 1 < chunkCount p 0) :
    p.chunk ≤ fbSize - k * p.chunk := by
  have hmul : (k + 2) * p.chunk ≤ fbSize - 0 + p.chunk - 1 := (Nat.le_div_iff_mul_le (Params.chunk_pos p)).mp h
  rw [Nat.add_mul] at hmul
  omega

/-- The sequencer in closed form: transfer k begins k * CHUNK bytes after the first. -/
theorem dataTransfers_eq_map_range (p : Params) (fb : Framebuffer) {fuel a : Nat} (h : fbSize ≤ a + fuel) :
    dataTransfers p fb fuel a =
      (List.range (chunkCount p a)).map fun k => dataTransferAt p fb (a + k * p.chunk) := by
  induction fuel generalizing a with
  | zero => rw [chunkCount_of_le (a := a) h]; rfl
  | succ fuel ih =>
    have hc := Params.chunk_pos p
    rcases Nat.lt_or_ge a fbSize with ha | ha
    · rw [dataTransfers_of_lt ha]
      rcases Nat.lt_or_ge (a + p.chunk) fbSize with hnext | hlast
      · rw [chunkCount_of_not_last hnext, Nat.min_eq_left (by omega), ih (by omega), List.range_succ_eq_map,
          List.map_cons, List.map_map, Nat.zero_mul, Nat.add_zero]
        refine congrArg _ (List.map_congr_left fun k _ => congrArg (dataTransferAt p fb) ?_)
        rw [Nat.succ_mul]
        omega
      · rw [chunkCount_of_last ha hlast, dataTransfers_of_le (by omega)]
        simp
    · rw [dataTransfers_of_le ha, chunkCount_of_le ha]
      rfl

/-! ### UPDATE -/

/-- The payloads of UPDATE's data transfers, in order. -/
def updateChunks (p : Params) (fb : Framebuffer) : List (List Byte) :=
  (dataTransfers p fb fbSize 0).map Transfer.payload

theorem updateChunks_eq_map_range (p : Params) (fb : Framebuffer) :
    updateChunks p fb = (List.range (chunkCount p 0)).map fun k => (dataTransferAt p fb (k * p.chunk)).payload := by
  simp [updateChunks, dataTransfers_eq_map_range p fb (Nat.le_add_left fbSize 0)]

theorem updateChunks_length (p : Params) (fb : Framebuffer) : (updateChunks p fb).length = chunkCount p 0 := by
  simp [updateChunks_eq_map_range]

theorem updateChunks_flatten (p : Params) (fb : Framebuffer) :
    (updateChunks p fb).flatten = (List.range fbSize).map fb.read := by
  rw [updateChunks, ← List.flatMap_def, dataTransfers_payloads p fb fbSize 0 (Nat.le_add_left fbSize 0),
    List.range_eq_range', Nat.sub_zero]

theorem updateChunks_mem_length {p : Params} {fb : Framebuffer} {bytes : List Byte} (h : bytes ∈ updateChunks p fb) :
    1 ≤ bytes.length ∧ bytes.length ≤ p.chunk := by
  obtain ⟨t, ht, rfl⟩ := List.mem_map.mp h
  exact (dataTransfers_mem ht).2

theorem updateChunks_full {p : Params} {fb : Framebuffer} {k : Nat} {bytes : List Byte}
    (h : (updateChunks p fb)[k]? = some bytes) (hk : k + 1 < chunkCount p 0) : bytes.length = p.chunk := by
  have hget : (updateChunks p fb)[k]? = some (dataTransferAt p fb (k * p.chunk)).payload := by
    simp [updateChunks_eq_map_range, List.getElem?_range (Nat.lt_of_succ_lt hk)]
  obtain rfl := Option.some.inj (h.symm.trans hget)
  rw [dataTransferAt_payload_length, Nat.min_eq_left (chunk_le_of_lt_chunkCount hk)]

/-- Every data transfer has the data control code, so the payloads determine the transfers. -/
theorem updateTransfers_eq (p : Params) (fb : Framebuffer) :
    updateTransfers p fb = windowTransfers p ++ (updateChunks p fb).map fun bytes => ⟨p.ctrlData, bytes⟩ := by
  have hctrl : ∀ t ∈ dataTransfers p fb fbSize 0, (⟨p.ctrlData, t.payload⟩ : Transfer) = t := fun t ht =>
    (dataTransfers_mem ht).1 ▸ rfl
  rw [updateTransfers, updateChunks, List.map_map]
  exact congrArg _ ((List.map_congr_left hctrl).trans (List.map_id _)).symm

/-- Twelve transactions for the window, then FB's bytes and three transactions around each chunk. -/
theorem commandEvents_update_length (s : State) :
    (commandEvents .update s).length = 12 + 1024 + 3 * chunkCount s.cfg 0 := by
  have hwindow : (busEvents s.cfg.devAddr (windowTransfers s.cfg)).length = 12 := busEvents_length ..
  have hbytes := congrArg List.length (dataTransfers_payloads s.cfg s.fb fbSize 0 (Nat.le_add_left fbSize 0))
  have hcount : (dataTransfers s.cfg s.fb fbSize 0).length = chunkCount s.cfg 0 := by
    rw [← updateChunks_length s.cfg s.fb, updateChunks, List.length_map]
  rw [List.length_map, List.length_range'] at hbytes
  rw [commandEvents_eq, transfersOf, updateTransfers, busEvents_append, List.length_append, hwindow,
    busEvents_length, hbytes, hcount, ← Nat.add_assoc]
  rfl

/-- Settles O53: the chunks are `updateChunks`, whatever CHUNK is. -/
theorem updateStreamsTheWholeFramebuffer : Obligations.UpdateStreamsTheWholeFramebuffer := by
  rintro s n rfl ha
  obtain ⟨t, hexec, hsent, hdstate, hbus⟩ :=
    exec_bus_answered (i := .update) rfl ((commandEvents_update_length s).symm ▸ ha)
  rw [commandEvents_eq, transfersOf, updateTransfers_eq] at hbus
  exact ⟨t, updateChunks s.cfg s.fb, hexec, hsent, hdstate, hbus, updateChunks_length .., fun _ _ => updateChunks_full,
    fun _ => updateChunks_mem_length, updateChunks_flatten ..⟩

end Sys2Proof.Machine
end

section
/-! Proofs of the statements about the display device (45_display_side_reference; an assumption about the environment,
log 12): what the transfers of INIT, ON, OFF and UPDATE do to a listening device, and that every step but a reset keeps
it in step with the engine. -/

namespace Sys2Proof

/-! ### The default wire parameters -/

section
variable {p : Params} (h : p.DefaultWire)
include h

theorem Params.DefaultWire.ctrlCmd : p.ctrlCmd = 0x00 := congrArg Params.ctrlCmd h

theorem Params.DefaultWire.ctrlData : p.ctrlData = 0x40 := congrArg Params.ctrlData h

theorem Params.DefaultWire.opcDisplayOn : p.opcDisplayOn = 0xAF := congrArg Params.opcDisplayOn h

theorem Params.DefaultWire.opcDisplayOff : p.opcDisplayOff = 0xAE := congrArg Params.opcDisplayOff h

end

end Sys2Proof

namespace Sys2Proof.Machine

/-! ### Command transfers -/

/-- The bytes are a command of the engine's with all its arguments (45_display_side_reference R142). -/
def IsDisplayCommand (bytes : List Byte) : Prop := (bytes.headD 0, bytes.length - 1) ∈ deviceCommands

/-- The device after a command with all its arguments (45_display_side_reference R143). -/
def Device.obey (d : Device) (bytes : List Byte) : Device :=
  d.perform (bytes.getD 0 0) (bytes.getD 1 0) (bytes.getD 2 0)

/-- A command changes the settings, and not the receive position or the address. -/
theorem Device.Listening.obey {d : Device} {p : Params} (h : d.Listening p) (bytes : List Byte) :
    (d.obey bytes).Listening p := by
  unfold Device.obey Device.perform
  iterate 16 refine iteInduction (motive := (Device.Listening · p)) (fun _ => h) fun _ => ?_
  exact h

theorem recvAll_commandTransfer {p : Params} {d : Device} {bytes : List Byte} (hw : p.DefaultWire)
    (hd : d.Listening p) (hc : IsDisplayCommand bytes) :
    Device.recvAll (Transfer.events p.devAddr (commandTransfer p bytes)) d = some (d.obey bytes) := by
  obtain ⟨hrx, hpending, haddr⟩ := hd
  cases bytes with
  | nil => simp [IsDisplayCommand, deviceCommands] at hc
  | cons op args =>
    rw [← haddr, commandTransfer, hw.ctrlCmd]
    exact Device.recv_commandTransfer hrx hpending hc

/-- A listening device obeys commands sent one transfer each, in order. -/
theorem recvAll_commandTransfers {p : Params} (hw : p.DefaultWire) {cmds : List (List Byte)}
    (hc : ∀ bytes ∈ cmds, IsDisplayCommand bytes) {d : Device} (hd : d.Listening p) :
    Device.recvAll (busEvents p.devAddr (cmds.map (commandTransfer p))) d = some (cmds.foldl Device.obey d) := by
  induction cmds generalizing d with
  | nil => rfl
  | cons bytes cmds ih =>
    obtain ⟨hbytes, hcmds⟩ := List.forall_mem_cons.mp hc
    rw [List.map_cons, busEvents_cons, Device.recvAll_append, recvAll_commandTransfer hw hd hbytes]
    exact ih hcmds (hd.obey bytes)

/-! ### The window, INIT, ON and OFF -/

/-- The two commands of UPDATE's window (44_display R122). -/
def windowCommands : List (List Byte) := [[0x21, 0, 127], [0x22, 0, 7]]

theorem windowTransfers_eq {p : Params} (hw : p.DefaultWire) :
    windowTransfers p = windowCommands.map (commandTransfer p) := by
  rw [show p = _ from hw]
  rfl

/-- Settles O54: COLUMNADDR and PAGEADDR set the window, and the pointers to its first corner. -/
theorem windowTransfersResetTheDevicePointers : Obligations.WindowTransfersResetTheDevicePointers := by
  intro p d hw hd
  have hc : ∀ bytes ∈ windowCommands, IsDisplayCommand bytes := by
    simp [windowCommands, IsDisplayCommand, deviceCommands]
  rw [windowTransfers_eq hw, recvAll_commandTransfers hw hc hd]
  rfl

/-- The fourteen commands of INIT (44_display R118). -/
def initCommands (p : Params) : List (List Byte) := [
  [0xAE], [0xD5, p.argClockDiv], [0xA8, p.argMultiplex], [0xD3, p.argDisplayOffset], [0x40],
  [0x8D, p.argChargePump], [0xA1], [0xC8], [0xDA, p.argComPins], [0x81, p.argContrast], [0xD9, p.argPrecharge],
  [0xDB, p.argVcomDetect], [0x20, 0x00], [0xAF]]

theorem initTransfers_eq {p : Params} (hw : p.DefaultWire) :
    initTransfers p = (initCommands p).map (commandTransfer p) := by
  rw [show p = _ from hw]
  rfl

/-- The settings that INIT programs, and that do not affect the RAM (45_display_side_reference R143). -/
def initPanel (p : Params) : PanelSettings where
  clockDiv := p.argClockDiv
  multiplex := p.argMultiplex
  displayOffset := p.argDisplayOffset
  startLine := 0
  chargePump := p.argChargePump
  segRemap := true
  comScanDec := true
  comPins := p.argComPins
  contrast := p.argContrast
  precharge := p.argPrecharge
  vcomDetect := p.argVcomDetect

theorem foldl_initCommands (p : Params) (d : Device) :
    (initCommands p).foldl Device.obey d = { d with mode := 0, disp := true, panel := initPanel p } := by
  simp [initCommands, initPanel, Device.obey, Device.perform]

/-- Settles O55: MEMORYMODE and DISPLAYON set the mode and the display bit, and the other commands of INIT change panel
settings only. -/
theorem initProgramsTheDevice : Obligations.InitProgramsTheDevice := by
  intro p d hw hd
  have hc : ∀ bytes ∈ initCommands p, IsDisplayCommand bytes := by
    simp [initCommands, IsDisplayCommand, deviceCommands]
  rw [initTransfers_eq hw, recvAll_commandTransfers hw hc hd]
  exact ⟨_, congrArg some (foldl_initCommands p d), hd, rfl, rfl, rfl, rfl, rfl, rfl, rfl, rfl, rfl⟩

/-- A command whose one transfer carries DISPLAYON or DISPLAYOFF sets the display bit (45_display_side_reference
R143). -/
theorem recvAll_switch {i : Instr} {s : State} {d : Device} {b : Bool} (hw : s.cfg.DefaultWire)
    (hd : d.Listening s.cfg) (hi : transfersOf i s = [commandTransfer s.cfg [if b then 0xAF else 0xAE]]) :
    Device.recvAll (commandEvents i s) d = some { d with disp := b } := by
  have hc : ∀ bytes ∈ [[if b then 0xAF else 0xAE]], IsDisplayCommand bytes := by
    cases b <;> simp [IsDisplayCommand, deviceCommands]
  rw [commandEvents_eq, hi]
  refine (recvAll_commandTransfers hw hc hd).trans ?_
  cases b <;> rfl

/-! ### Data bytes in the window of UPDATE -/

/-- Devices with the same byte on every page and in every column have the same RAM. -/
theorem Device.gddram_ext {d e : Device} (h : ∀ p c, p < 8 → c < 128 → d.ram p c = e.ram p c) :
    d.gddram = e.gddram := by
  refine Vector.ext fun p hp => Vector.ext fun c hc => ?_
  simpa [Device.ram, hp, hc] using h p c hp hc

/-- The device with UPDATE's window set and the bytes FB[0], ..., FB[a-1] received: they stand in its RAM, and the
pointers are at address a, modulo the 1024 bytes of the window. -/
def Device.filled (fb : Framebuffer) (a : Nat) (d : Device) : Device :=
  { d with
    gddram := Vector.ofFn fun p => Vector.ofFn fun c =>
      if p.val * 128 + c.val < a then fb.read (p.val * 128 + c.val) else d.ram p.val c.val
    cp := BitVec.ofNat 7 a
    pp := BitVec.ofNat 3 (a / 128)
    cs := 0
    ce := 127
    ps := 0
    pe := 7 }

theorem Device.ram_filled (fb : Framebuffer) (a : Nat) (d : Device) {p c : Nat} (hp : p < 8) (hc : c < 128) :
    (d.filled fb a).ram p c = if p * 128 + c < a then fb.read (p * 128 + c) else d.ram p c := by
  simp [Device.ram, Device.filled, hp, hc]

theorem Device.filled_zero (fb : Framebuffer) (d : Device) :
    d.filled fb 0 = { d with cs := 0, ce := 127, ps := 0, pe := 7, cp := 0, pp := 0 } := by
  have hram : (d.filled fb 0).gddram = d.gddram :=
    Device.gddram_ext fun p c hp hc => Device.ram_filled fb 0 d hp hc
  rw [← hram]
  rfl

/-- With all bytes received the RAM is FB, whatever it was. -/
theorem Device.filled_mirrors (fb : Framebuffer) (d : Device) : (d.filled fb fbSize).Mirrors fb := by
  intro p c hp hc
  rw [Device.ram_filled fb fbSize d hp hc, if_pos (by unfold fbSize; omega)]

/-- The pointers run through the window column by column and page by page, and then return to its first corner
(45_display_side_reference R144, R145). -/
theorem Device.advance_window {d : Device} {a : Nat} (hcp : d.cp = BitVec.ofNat 7 a)
    (hpp : d.pp = BitVec.ofNat 3 (a / 128)) (hcs : d.cs = 0) (hce : d.ce = 127) (hps : d.ps = 0) (hpe : d.pe = 7) :
    d.advance = some { d with cp := BitVec.ofNat 7 (a + 1), pp := BitVec.ofNat 3 ((a + 1) / 128) } := by
  have hcolumn : d.cp = 127 ↔ a % 128 = 127 := by rw [hcp, ← BitVec.toNat_inj]; simp
  have hpage : d.pp = 7 ↔ a / 128 % 8 = 7 := by rw [hpp, ← BitVec.toNat_inj]; simp
  have hnext_column : BitVec.ofNat 7 (a + 1) = d.cp + 1 := hcp ▸ BitVec.ofNat_add a 1
  have hnext_page : BitVec.ofNat 3 (a / 128 + 1) = d.pp + 1 := hpp ▸ BitVec.ofNat_add (a / 128) 1
  simp only [Device.advance, hce, hpe, hcs, hps, hcolumn, hpage, hnext_column]
  by_cases hlast : a % 128 = 127
  · rw [if_pos hlast, show (a + 1) / 128 = a / 128 + 1 by omega, hnext_page, hcolumn.mpr hlast]
    by_cases hend : a / 128 % 8 = 7
    · rw [if_pos hend, hpage.mpr hend]
      rfl
    · rw [if_neg hend, if_neg hend]
      rfl
  · rw [if_neg hlast, if_neg hlast, show (a + 1) / 128 = a / 128 by omega, ← hpp]

/-- The byte at address a is stored on page a div 128, in column a mod 128. -/
theorem Device.gddram_store_filled (d : Device) (fb : Framebuffer) {a : Nat} (ha : a < fbSize) :
    ((d.filled fb a).store (fb.read a)).gddram = (d.filled fb (a + 1)).gddram := by
  refine Device.gddram_ext fun p c hp hc => ?_
  have hpointers : (p = (d.filled fb a).pp.toNat ∧ c = (d.filled fb a).cp.toNat) ↔ p * 128 + c = a := by
    simp only [Device.filled, BitVec.toNat_ofNat]
    unfold fbSize at ha
    omega
  rw [Device.ram_store _ _ hp hc, Device.ram_filled fb a d hp hc, Device.ram_filled fb (a + 1) d hp hc]
  simp only [hpointers]
  rcases Nat.lt_trichotomy (p * 128 + c) a with hlt | heq | hgt
  · rw [if_neg (by omega), if_pos hlt, if_pos (by omega)]
  · rw [if_pos heq, if_pos (by omega), heq]
  · rw [if_neg (by omega), if_neg (by omega), if_neg (by omega)]

/-- One data byte, the next of FB (45_display_side_reference R144). -/
theorem Device.dataByte_filled {d : Device} (hm : d.mode = 0) (fb : Framebuffer) {a : Nat} (ha : a < fbSize) :
    (d.filled fb a).dataByte (fb.read a) = some (d.filled fb (a + 1)) := by
  have hmode : (d.filled fb a).mode = 0 := hm
  have hstore : (d.filled fb a).store (fb.read a) =
      { d.filled fb a with gddram := (d.filled fb (a + 1)).gddram } := by
    rw [← Device.gddram_store_filled d fb ha]
    rfl
  rw [Device.dataByte, if_pos hmode, hstore, Device.advance_window (a := a) rfl rfl rfl rfl rfl rfl]
  rfl

/-! ### UPDATE -/

theorem fbBytes_succ (fb : Framebuffer) (a n : Nat) : fbBytes fb a (n + 1) = fbBytes fb a n ++ [fb.read (a + n)] := by
  simp [fbBytes, List.range_succ]

theorem recvAll_payload {d : Device} (hrx : d.rx = .data) (hm : d.mode = 0) (fb : Framebuffer) {a n : Nat}
    (h : a + n ≤ fbSize) :
    Device.recvAll ((fbBytes fb a n).map .busWrite) (d.filled fb a) = some (d.filled fb (a + n)) := by
  induction n with
  | zero => rfl
  | succ n ih =>
    have hbyte : Device.recv (.busWrite (fb.read (a + n))) (d.filled fb (a + n)) = some (d.filled fb (a + n + 1)) := by
      rw [← Device.dataByte_filled hm fb (by omega : a + n < fbSize)]
      simp [Device.recv, Device.filled, hrx]
    rw [fbBytes_succ, List.map_append, Device.recvAll_append, ih (by omega)]
    simp [Device.recvAll, hbyte, Nat.add_assoc]

/-- After the control byte of a data transfer every byte up to the end is a data byte (45_display_side_reference
R141). -/
theorem recvAll_events_data {p : Params} {d : Device} (hw : p.DefaultWire) (hd : d.Listening p) (bytes : List Byte) :
    Device.recvAll (Transfer.events p.devAddr ⟨p.ctrlData, bytes⟩) d =
      (Device.recvAll (bytes.map .busWrite) { d with rx := .data }).bind (Device.recvAll [.busEnd]) := by
  obtain ⟨hrx, -, haddr⟩ := hd
  have hbegin : d.recv (.busBegin p.devAddr) = some { d with rx := .control } := by simp [Device.recv, hrx, haddr]
  have hctrl : Device.recv (.busWrite 0x40) { d with rx := .control } = some { d with rx := .data } := rfl
  rw [← Device.recvAll_append, hw.ctrlData, Transfer.events, Device.recvAll, hbegin, Option.bind_some,
    Device.recvAll, hctrl, Option.bind_some]

theorem recvAll_dataTransfer {p : Params} {d : Device} (hw : p.DefaultWire) (hd : d.Listening p) (hm : d.mode = 0)
    (fb : Framebuffer) {a n : Nat} (h : a + n ≤ fbSize) :
    Device.recvAll (Transfer.events p.devAddr ⟨p.ctrlData, fbBytes fb a n⟩) (d.filled fb a) =
      some (d.filled fb (a + n)) := by
  have hpayload := recvAll_payload (d := { d with rx := .data }) rfl hm fb h
  have hidle : ({ d.filled fb (a + n) with rx := .idle } : Device) = d.filled fb (a + n) := by
    rw [show RxPhase.idle = (d.filled fb (a + n)).rx from hd.1.symm]
  rw [recvAll_events_data hw (d := d.filled fb a) hd]
  exact (congrArg (Option.bind · _) hpayload).trans (congrArg some hidle)

theorem recvAll_dataTransfers {p : Params} {d : Device} (hw : p.DefaultWire) (hd : d.Listening p) (hm : d.mode = 0)
    (fb : Framebuffer) {fuel a : Nat} (hfuel : fbSize ≤ a + fuel) (ha : a ≤ fbSize) :
    Device.recvAll (busEvents p.devAddr (dataTransfers p fb fuel a)) (d.filled fb a) = some (d.filled fb fbSize) := by
  induction fuel generalizing a with
  | zero =>
    obtain rfl : a = fbSize := by omega
    rfl
  | succ fuel ih =>
    rcases Nat.lt_or_ge a fbSize with hlt | hge
    · have hc := Params.chunk_pos p
      rw [dataTransfers_of_lt hlt, busEvents_cons, Device.recvAll_append, dataTransferAt,
        recvAll_dataTransfer hw hd hm fb (by omega)]
      exact ih (by omega) (by omega)
    · obtain rfl : a = fbSize := by omega
      rw [dataTransfers_of_le hge]
      rfl

/-- The window puts the pointers at the first byte of the RAM, and the data transfers fill it, for every CHUNK
(45_display_side_reference R145). -/
theorem recvAll_update {p : Params} {d : Device} (hw : p.DefaultWire) (hd : d.Listening p) (hm : d.mode = 0)
    (fb : Framebuffer) :
    Device.recvAll (busEvents p.devAddr (updateTransfers p fb)) d = some (d.filled fb fbSize) := by
  rw [updateTransfers, busEvents_append, Device.recvAll_append, windowTransfersResetTheDevicePointers p d hw hd,
    ← Device.filled_zero fb]
  exact recvAll_dataTransfers hw hd hm fb (by omega) (by omega)

/-- Settles O56: the device ends `filled` with all 1024 bytes. -/
theorem updateMirrorsTheFramebuffer : Obligations.UpdateMirrorsTheFramebuffer := by
  intro p fb d hw hd hm
  exact ⟨_, recvAll_update hw hd hm fb, d.filled_mirrors fb, hd, hm, rfl, rfl, rfl⟩

/-! ### The device follows the engine -/

/-- The relation looks at the parameters and at DSTATE only. -/
theorem Device.Follows.congr {d : Device} {s t : State} (h : d.Follows s) (hcfg : t.cfg = s.cfg)
    (hdstate : t.dstate = s.dstate) : d.Follows t := by
  obtain ⟨hwire, hlistening, hmode, hinit, hdisp⟩ := h
  exact ⟨hcfg ▸ hwire, hcfg ▸ hlistening, hmode, hdstate ▸ hinit, hdstate ▸ hdisp⟩

/-- No command writes the parameters, so only the device and DSTATE are left to look at after one. -/
theorem Device.Follows.of_exec {i : Instr} {s t : State} {e : Device} (h : exec i s = .next t)
    (hw : s.cfg.DefaultWire) (hl : e.Listening s.cfg) (hm : e.mode = 0) (hinit : t.dstate ≠ .uninit)
    (hdisp : e.disp = true ↔ t.dstate = .on) : e.Follows t := by
  obtain ⟨-, hcfg, -⟩ := exec_frame h
  exact ⟨hcfg ▸ hw, hcfg ▸ hl, hm, hinit, hdisp⟩

/-- INIT makes a listening device follow the engine, and leaves its RAM alone (45_display_side_reference R143). -/
theorem exec_init_follows {s t : State} {d : Device} (hw : s.cfg.DefaultWire) (hd : d.Listening s.cfg)
    (h : exec .init s = .next t) :
    ∃ e, Device.recvAll (commandEvents .init s) d = some e ∧ e.Follows t ∧ e.gddram = d.gddram := by
  obtain ⟨e, hrecv, hlistening, hmode, hdisp, hram, -⟩ := initProgramsTheDevice s.cfg d hw hd
  have hdstate : t.dstate = .on := exec_dstate h
  exact ⟨e, hrecv, .of_exec h hw hlistening hmode (by simp [hdstate]) (by simp [hdstate, hdisp]), hram⟩

section
variable {s t : State} {d : Device} (hf : d.Follows s)
include hf

/-- UPDATE leaves FB as it was, and in the RAM of a device that follows (45_display_side_reference R145). -/
theorem exec_update_follows (h : exec .update s = .next t) :
    ∃ e, Device.recvAll (commandEvents .update s) d = some e ∧ e.Follows t ∧ e.Mirrors t.fb ∧ t.fb = s.fb := by
  obtain ⟨e, hrecv, hmirrors, hlistening, hmode, hdisp, -⟩ :=
    updateMirrorsTheFramebuffer s.cfg s.fb d hf.wire hf.listening hf.mode
  have hdstate : t.dstate = s.dstate := exec_dstate h
  have hfb : t.fb = s.fb := (nonDrawingCommandsKeepTheFramebuffer .update s t h).1 (by simp)
  rw [hfb]
  exact ⟨e, hrecv, .of_exec h hf.wire hlistening hmode (hdstate ▸ hf.initialized) (by rw [hdisp, hdstate, hf.disp]),
    hmirrors, rfl⟩

/-- ON and OFF switch the display bit and DSTATE together, once INIT has been sent (44_display R120, R121). -/
theorem exec_switch_follows {i : Instr} {b : Bool} (h : exec i s = .next t)
    (hi : transfersOf i s = [commandTransfer s.cfg [if b then 0xAF else 0xAE]])
    (hdstate : t.dstate = if b then .on else .off) :
    ∃ e, Device.recvAll (commandEvents i s) d = some e ∧ e.Follows t ∧ e.gddram = d.gddram := by
  obtain ⟨hw, hl, hm, -, -⟩ := hf
  refine ⟨_, recvAll_switch hw hl hi, .of_exec h hw hl hm ?_ ?_, rfl⟩
  all_goals cases b <;> simp [hdstate]

/-- A command other than UPDATE keeps the device following, and leaves its RAM alone. -/
theorem exec_follows_of_ne_update {i : Instr} (hi : i ≠ .update) (h : exec i s = .next t) :
    ∃ e, Device.recvAll (commandEvents i s) d = some e ∧ e.Follows t ∧ e.gddram = d.gddram := by
  cases hb : usesBus i with
  | false =>
    have q := exec_quiet_next hb h
    have hevents : commandEvents i s = [] := by rw [commandEvents_eq, transfersOf_of_quiet hb, busEvents_nil]
    exact ⟨d, by rw [hevents]; rfl, hf.congr q.cfg q.dstate, rfl⟩
  | true =>
    rcases usesBus_iff.mp hb with rfl | rfl | rfl | rfl
    · exact exec_init_follows hf.wire hf.listening h
    · exact absurd rfl hi
    · exact exec_switch_follows hf (b := true) h (by rw [transfersOf, hf.wire.opcDisplayOn]; rfl)
        ((exec_dstate h).trans (if_neg hf.initialized))
    · exact exec_switch_follows hf (b := false) h (by rw [transfersOf, hf.wire.opcDisplayOff]; rfl)
        ((exec_dstate h).trans (if_neg hf.initialized))

theorem exec_follows {i : Instr} (h : exec i s = .next t) :
    ∃ e, Device.recvAll (commandEvents i s) d = some e ∧ e.Follows t ∧ (i = .update → e.Mirrors t.fb) ∧
      (i ≠ .update → e.gddram = d.gddram) := by
  by_cases hi : i = .update
  · subst hi
    obtain ⟨e, hrecv, he, hmirrors, -⟩ := exec_update_follows hf h
    exact ⟨e, hrecv, he, fun _ => hmirrors, fun hne => absurd rfl hne⟩
  · obtain ⟨e, hrecv, he, hram⟩ := exec_follows_of_ne_update hf hi h
    exact ⟨e, hrecv, he, fun heq => absurd heq hi, fun _ => hram⟩

end

/-- Settles O58: a step that executes a command sends `commandEvents`, and any other step that is not a reset sends
nothing and leaves the parameters and DSTATE as they were. -/
theorem everyStepKeepsTheDeviceFollowing : Obligations.EveryStepKeepsTheDeviceFollowing := by
  intro s t d hf hreset h
  cases step_effect h with
  | idle hin => exact ⟨d, [], (List.append_nil _).symm, rfl, hf, by simp [hin], fun _ => rfl⟩
  | @executed w rest i _ hin hd he =>
    obtain ⟨e, hrecv, hfollows, hmirrors, hram⟩ :=
      exec_follows (s := { s with inputs := rest }) (hf.congr rfl rfl) he
    have hbus := exec_bus_append he
    refine ⟨e, _, hbus, hrecv, hfollows, fun v more hv hupdate => ?_, fun hne => hram ?_⟩
    · cases hin.symm.trans hv
      exact hmirrors (Except.ok.inj (hd.symm.trans hupdate))
    · rintro rfl
      exact hne w rest hin hd
  | @refused w rest code hin hd =>
    refine ⟨d, [], (List.append_nil _).symm, rfl, hf.congr rfl rfl, fun v more hv hupdate => ?_, fun _ => rfl⟩
    cases hin.symm.trans hv
    cases hd.symm.trans hupdate
  | environment hin =>
    exact ⟨d, [], (List.append_nil _).symm, rfl, hf.congr rfl rfl, by simp [hin], fun _ => rfl⟩
  | reset hin => exact absurd (by rw [hin]; rfl) hreset

/-! ### A program between INIT and UPDATE -/

theorem execAll_cons_next {i : Instr} {is : List Instr} {s u : State} (h : execAll (i :: is) s = .next u) :
    ∃ t, exec i s = .next t ∧ execAll is t = .next u := by
  rw [execAll] at h
  split at h
  · next t ht => exact ⟨t, ht, h⟩
  · cases h
  · cases h

/-- Commands that complete one after another keep the device following. -/
theorem execAll_follows {is : List Instr} {s t : State} {d : Device} (hf : d.Follows s)
    (h : execAll is s = .next t) :
    ∃ e sent, t.bus = s.bus ++ sent ∧ Device.recvAll sent d = some e ∧ e.Follows t := by
  induction is generalizing s d with
  | nil =>
    cases h
    exact ⟨d, [], (List.append_nil _).symm, rfl, hf⟩
  | cons i is ih =>
    obtain ⟨u, hexec, hrest⟩ := execAll_cons_next h
    obtain ⟨e, hrecv, he, -⟩ := exec_follows hf hexec
    obtain ⟨f, sent, hbus, hrecvs, hfollows⟩ := ih he hrest
    refine ⟨f, commandEvents i s ++ sent, by rw [hbus, exec_bus_append hexec, List.append_assoc], ?_, hfollows⟩
    rw [Device.recvAll_append, hrecv]
    exact hrecvs

/-- A mirrored FB is mirrored pixel by pixel: pixel (x, y) is bit y mod 8 of byte x of page y div 8 (20_memory R31). -/
theorem Device.Mirrors.pixel_eq {d : Device} {fb : Framebuffer} (h : d.Mirrors fb) {x y : Nat} (hx : x < screenW)
    (hy : y < screenH) : d.pixel x y = Machine.pixel fb x y := by
  unfold Device.pixel Machine.pixel pixelAddr
  rw [h (y / 8) x (by unfold screenH at hy; omega) hx]

/-- Settles O57: INIT makes the device follow, the commands keep it following, and UPDATE leaves FB in its RAM. -/
theorem displayMirrorsAfterInitAndUpdate : Obligations.DisplayMirrorsAfterInitAndUpdate := by
  intro s0 s1 s2 s3 is d hw hd hinit hcommands hupdate
  obtain ⟨d1, hrecv1, hf1, -⟩ := exec_init_follows hw hd hinit
  obtain ⟨d2, sent, hbus2, hrecv2, hf2⟩ := execAll_follows hf1 hcommands
  obtain ⟨d3, hrecv3, hf3, hmirrors, hfb⟩ := exec_update_follows hf2 hupdate
  refine ⟨d3, commandEvents .init s0 ++ (sent ++ commandEvents .update s2), ?_, ?_, hmirrors, hfb,
    fun _ _ => hmirrors.pixel_eq, hf3.disp⟩
  · rw [exec_bus_append hupdate, hbus2, exec_bus_append hinit, List.append_assoc, List.append_assoc]
  · rw [Device.recvAll_append, hrecv1, Option.bind_some, Device.recvAll_append, hrecv2, Option.bind_some, hrecv3]

end Sys2Proof.Machine
end

section
/-! Proofs of the statements about exceptions (60_exceptions): the idle step, the refusal of a word, the answers that
set BUSFAIL, and the two sticky flags. -/

namespace Sys2Proof.Machine

/-- Settles O8: the step looks at the first input, and there is none. -/
theorem idleStepChangesNothing : Obligations.IdleStepChangesNothing := by
  intro s h
  simp only [step, h]

/-! ### The answers of the transport -/

/-- The two ways to fail (60_exceptions R155). -/
theorem BusEvent.failedBy_iff {e : BusEvent} {a : BusAnswer} :
    e.failedBy a = true ↔ (∃ b, e = .busWrite b ∧ a.success = false) ∨ (e = .busEnd ∧ a.status ≠ 0) := by
  cases e <;> simp [BusEvent.failedBy]

theorem commandEvents_of_quiet {i : Instr} (h : usesBus i = false) (s : State) : commandEvents i s = [] := by
  rw [commandEvents_eq, transfersOf_of_quiet h, busEvents_nil]

/-- No failure is noted for a command that stays off the bus: it has no transactions. -/
theorem exec_busFail {i : Instr} {s t : State} (h : exec i s = .next t) :
    t.status.busFail = (s.status.busFail || anyFailed (commandEvents i s) s.transport s.drawn) := by
  cases hb : usesBus i with
  | true =>
    obtain ⟨-, rfl⟩ := exec_bus_next hb h
    rfl
  | false => rw [(exec_quiet_next hb h).busFail, commandEvents_of_quiet hb, anyFailed, Bool.or_false]

/-! ### The sticky flags -/

theorem exec_keeps_illegal {i : Instr} {s t : State} (h : exec i s = .next t) (hs : s.status.illegal = true) :
    t.status.illegal = true := by
  cases exec_effect h with
  | refused => rfl
  | sent | drew | located | scaled | wrote => exact hs

theorem exec_keeps_busFail {i : Instr} {s t : State} (h : exec i s = .next t) (hs : s.status.busFail = true) :
    t.status.busFail = true := by
  rw [exec_busFail h, hs, Bool.true_or]

/-- Only a reset clears a flag of STATUS (10_state R20). -/
theorem step_keeps_flags {s t : State} (h : step s = .next t) (hreset : s.inputs.head? ≠ some .reset) :
    (s.status.illegal = true → t.status.illegal = true) ∧ (s.status.busFail = true → t.status.busFail = true) := by
  cases step_effect h with
  | idle | environment => exact ⟨id, id⟩
  | executed _ _ he => exact ⟨fun hs => exec_keeps_illegal he hs, fun hs => exec_keeps_busFail he hs⟩
  | refused => exact ⟨fun _ => rfl, id⟩
  | reset hin => exact absurd (by rw [hin]; rfl) hreset

/-- Settles O9: the step on a refused word is `raiseIllegal`, whose response is built after ILLEGAL was set, and no step
but a reset clears a flag. -/
theorem illegalCommandIsPreciseAndSticky : Obligations.IllegalCommandIsPreciseAndSticky := by
  refine ⟨fun s w rest code hin hd => ?_, fun s t h hreset => (step_keeps_flags h hreset).1⟩
  obtain ⟨hret, herr, hillegal, -⟩ := responseWord_fields 0 code.bits ({ s with inputs := rest } : State).setIllegal
  exact ⟨_, _, step_refused hin hd, rfl, hret, herr, hillegal, fun v j more hrest hv =>
    step_decoded (s := raiseIllegal code { s with inputs := rest }) hrest hv⟩

/-- Settles O18: BUSFAIL gains `anyFailed` of the command's transactions, which all stand in the stream, and no step but
a reset clears a flag. -/
theorem busFailRecordsFailedAnswers : Obligations.BusFailRecordsFailedAnswers := by
  refine ⟨fun i s t hwf h => ⟨?_, exec_bus_append h, _, exec_response hwf h, ?_⟩,
    fun s t h hreset => (step_keeps_flags h hreset).2⟩
  · rw [exec_busFail h, Bool.or_eq_true, anyFailed_iff _ _ _ s rfl rfl]
    simp only [BusEvent.failedBy_iff]
  · obtain ⟨-, herr, -⟩ := responseWord_fields (returnValue i) 0 t
    exact herr

end Sys2Proof.Machine
end

section
/-! Proofs of the statements about reset and hazards (70_reset_and_hazards): what a reset leaves, a transport that never
answers, and drawing twice with INVERSE. -/

namespace Sys2Proof.Machine

/-! ### A transport that never answers -/

theorem busCommand_stalled {ts : List Transfer} {after : State → State} {s : State} {k : Nat}
    (h : stallAt s.transport (busEvents s.cfg.devAddr ts).length = some k) :
    busCommand ts after s = .fault (.transportStalled ((busEvents s.cfg.devAddr ts).take (k + 1))) := by
  simp only [busCommand, h]

/-- A command with a transaction to wait for is one of the four that use the bus. -/
theorem usesBus_of_lt_commandEvents {i : Instr} {s : State} {k : Nat} (h : k < (commandEvents i s).length) :
    usesBus i = true := by
  rw [← Bool.not_eq_false]
  intro hquiet
  simp [commandEvents_of_quiet hquiet] at h

/-- Settles O20: a bus command is stuck where `stallAt` says, and any other command has no transactions and completes. -/
theorem stalledTransportNeverCompletes : Obligations.StalledTransportNeverCompletes := by
  refine ⟨fun i s k hk hnever hbefore => ?_, fun i s h => ?_⟩
  · rw [exec_bus (usesBus_of_lt_commandEvents hk)]
    exact busCommand_stalled (stallAt_eq_some.mpr ⟨hk, hnever, hbefore⟩)
  · cases hb : usesBus i with
    | true =>
      obtain ⟨t, hexec, -⟩ := exec_bus_answered hb (stallAt_eq_none.mpr h)
      exact ⟨t, hexec⟩
    | false =>
      obtain ⟨t, hexec, -⟩ := exec_quiet hb s
      exact ⟨t, hexec⟩

/-! ### Painting in one colour -/

/-- The same pixels toggled twice are as they were. -/
theorem PaintsExactly.inverse_twice {painted : Nat → Nat → Prop} {fb fc fd : Framebuffer}
    (hfirst : PaintsExactly .inverse painted fb fc) (hsecond : PaintsExactly .inverse painted fc fd) : fd = fb := by
  refine ext_pixel fun px py hx hy => ?_
  obtain ⟨hpaint, hkeep⟩ := hfirst px py hx hy
  obtain ⟨hpaint', hkeep'⟩ := hsecond px py hx hy
  by_cases hon : painted px py
  · rw [hpaint' hon, hpaint hon, applyColour_inverse_twice]
  · rw [hkeep' hon, hkeep hon]

/-- In one colour the background is suppressed, and a glyph paints its foreground pixels, each once (42_glyph R92). -/
theorem glyph_paintsExactly (g : GlyphPixels) (gw gh : Nat) (x y : Int) (ch : Byte) (c : Colour) (s : Nat)
    (fb : Framebuffer) :
    PaintsExactly c
      (fun px py => inRect x y (gw * s : Nat) (gh * s : Nat) px py ∧
        g ch ((px - x).toNat / s) ((py - y).toNat / s) = true)
      fb (glyph g gw gh x y ch c c s fb) := by
  intro px py hx hy
  obtain ⟨hout, hin⟩ := glyphIsScaledByReplication g gw gh x y ch c c s fb px py hx hy
  refine ⟨fun ⟨hcell, hfg⟩ => ?_, fun hnot => ?_⟩
  · rw [hin hcell, if_pos hfg]
  · by_cases hcell : inRect x y (gw * s : Nat) (gh * s : Nat) px py
    · rw [hin hcell, if_neg fun hfg => hnot ⟨hcell, hfg⟩, if_pos rfl]
    · exact hout hcell

/-- In one colour a bitmap paints its rectangle, each pixel once, whatever its source bits (43_blit R111). -/
theorem bitmap_paintsExactly (m : Memory) (x y : Int) (base w h : Nat) (c : Colour) (fb : Framebuffer) :
    PaintsExactly c (inRect x y w h) fb (bitmap m x y base w h c c fb) := by
  intro px py hx hy
  refine ⟨fun hin => ?_, fun hout => bitmap_misses hx hy hout fb⟩
  rw [bitmap_acts hx hy hin fb, ite_self]

/-! ### Drawing commands with INVERSE -/

/-- A command that draws with one and the same operation, whatever FB and the responses are, restores FB the second time
where that operation toggles the same pixels of every framebuffer. -/
theorem exec_inverse_twice_fb {i : Instr} {f : Framebuffer → Framebuffer} {painted : Nat → Nat → Prop} {s t u : State}
    (hf : ∀ fb, PaintsExactly .inverse painted fb (f fb))
    (hi : ∀ r : State, r.cfg = s.cfg → r.bm = s.bm → exec i r = .next (draw f r))
    (ht : exec i s = .next t) (hu : exec i t = .next u) : u.fb = s.fb := by
  rw [hi s rfl rfl] at ht
  cases ht
  rw [hi (draw f s) rfl rfl] at hu
  cases hu
  exact (hf s.fb).inverse_twice (hf (f s.fb))

/-- A refused command leaves FB alone, however often it is given. -/
theorem exec_illFormed_twice_fb {i : Instr} {s t u : State} (hi : i.wellFormed = false)
    (ht : exec i s = .next t) (hu : exec i t = .next u) : u.fb = s.fb := by
  rw [exec_of_illFormed hi] at ht hu
  cases ht
  cases hu
  rfl

/-- A glyph command is refused in scale 0, and in any other scale toggles the foreground pixels of its glyph. -/
theorem exec_glyph_inverse_twice_fb {i : Instr} {g : GlyphPixels} {gw gh : Nat} {x y : Int} {ch size : Byte}
    {s t u : State} (hw : i.wellFormed = (size != 0))
    (hi : size ≠ 0 → ∀ r : State, r.cfg = s.cfg →
      exec i r = .next (draw (glyph g gw gh x y ch .inverse .inverse size.toNat) r))
    (ht : exec i s = .next t) (hu : exec i t = .next u) : u.fb = s.fb := by
  by_cases hsize : size = 0
  · exact exec_illFormed_twice_fb (by simp [hw, hsize]) ht hu
  · exact exec_inverse_twice_fb (glyph_paintsExactly g gw gh x y ch .inverse size.toNat)
      (fun r hcfg _ => hi hsize r hcfg) ht hu

/-- Settles O37: each of the commands toggles a set of pixels that its operands, the fonts and BM determine, and it
writes none of these. -/
theorem inverseDrawnTwiceRestoresTheFramebuffer : Obligations.InverseDrawnTwiceRestoresTheFramebuffer := by
  rintro i s t u (rfl | ⟨x, y, rfl⟩ | ⟨x0, y0, x1, y1, rfl⟩ | ⟨x, y, h, rfl⟩ | ⟨x, y, w, rfl⟩ | ⟨x, y, w, h, rfl⟩ |
    ⟨x, y, ch, n, rfl⟩ | ⟨x, y, ch, n, rfl⟩ | ⟨x, y, base, w, h, rfl⟩) ht hu
  · exact exec_inverse_twice_fb (mapBytes_paintByte_paintsExactly .inverse)
      (fun r _ _ => exec_fillscreen .inverse r) ht hu
  · exact exec_inverse_twice_fb (putPixel_paintsExactly _ _ .inverse)
      (fun r _ _ => exec_drawpixel x y .inverse r) ht hu
  · exact exec_inverse_twice_fb (plot_paintsExactly (linePoints_nodup _ _ _ _) .inverse)
      (fun r _ _ => exec_drawline x0 y0 x1 y1 .inverse r) ht hu
  · exact exec_inverse_twice_fb (vline_paintsExactly _ _ _ .inverse)
      (fun r _ _ => exec_drawfastvline x y h .inverse r) ht hu
  · exact exec_inverse_twice_fb (hline_paintsExactly _ _ _ .inverse)
      (fun r _ _ => exec_drawfasthline x y w .inverse r) ht hu
  · exact exec_inverse_twice_fb (rect_paintsExactly _ _ _ _ .inverse)
      (fun r _ _ => exec_fillrect x y w h .inverse r) ht hu
  · exact exec_glyph_inverse_twice_fb rfl
      (fun hn r hcfg => hcfg ▸ exec_drawchar hn x y ch .inverse .inverse r) ht hu
  · exact exec_glyph_inverse_twice_fb rfl
      (fun hn r hcfg => hcfg ▸ exec_drawcharfont2 hn x y ch .inverse .inverse r) ht hu
  · exact exec_inverse_twice_fb (bitmap_paintsExactly s.bm _ _ _ _ _ .inverse)
      (fun r _ hbm => hbm ▸ exec_drawbitmap x y base w h .inverse .inverse r) ht hu

/-! ### Reset -/

/-- Settles O11: the values stand in `State.reset`. -/
theorem resetStateHasTheSpecValues : Obligations.ResetStateHasTheSpecValues :=
  ⟨rfl, rfl, rfl, rfl, rfl, rfl, rfl, rfl⟩

theorem step_reset {s : State} {rest : List Input} (h : s.inputs = .reset :: rest) :
    step s = .next (State.resetNow { s with inputs := rest }) := by
  simp only [step, h]

/-- Settles O12: the step is `State.resetNow`, field by field. -/
theorem resetStepLeavesTheSpecValues : Obligations.ResetStepLeavesTheSpecValues := by
  intro s rest h
  exact ⟨_, step_reset h, by simp⟩

/-- Settles O22: textSize is 1, nothing of BM is listed, and the stream is that of no transfers. -/
theorem resetStateMeetsTheInvariant : Obligations.ResetStateMeetsTheInvariant := by
  obtain ⟨-, -, hsize, -, -, -, -, hbus⟩ := resetStateHasTheSpecValues
  exact ⟨by simp [hsize], Memory.wf_nil, [], hbus, List.forall_mem_nil _⟩

end Sys2Proof.Machine
end
